-- ==== Sys2Proof/Word.lean ====
section
/-! DEFINITION. The two word types of the block: the 16-bit word of the host registers (10_state.md R30)
and the 8-bit byte of the bus (20_memory.md R60, R61). Every value is an unsigned number of its stated width
(00_scope.md R12), so both are bit vectors. -/

namespace Sys2Proof

/-- A 16-bit word: an opcode, a host register, a response word. -/
abbrev Word := BitVec 16

/-- An 8-bit byte: a bus byte, a CRC value, a transport cause. -/
abbrev Byte := BitVec 8

end Sys2Proof
end

