-- ==== Sys2Proof/Syntax.lean ====
section
/-! DEFINITION. The syntax of everything that can be asked of the block: the eight sensor commands
(30_encoding.md R95), the eight host registers (10_state.md R30), the host access tuple (R93), what the agents
outside the block present in one cycle (00_scope.md R18, 41_command_framer.md R140), and the host program
notation (R110 to R114). Descriptors of commands are data too (R96). -/

namespace Sys2Proof

/-- The sensor commands, one constructor per row of the catalog (30_encoding.md R95), in the catalog's order. No command
carries an operand (R90, R94). -/
inductive Instr where
  | startPeriodic        -- START_PERIODIC, R170
  | stopPeriodic         -- STOP_PERIODIC, R171
  | readMeasurement      -- READ_MEASUREMENT, R172
  | getDataReady         -- GET_DATA_READY, R173
  | getTempOffset        -- GET_TEMP_OFFSET, R174
  | getSensorAltitude    -- GET_SENSOR_ALTITUDE, R175
  | getAmbientPressure   -- GET_AMBIENT_PRESSURE, R176
  | reinit               -- REINIT, R177
  deriving DecidableEq, Repr, Inhabited

/-- A command descriptor: the hardware fields of one catalog row (30_encoding.md R95, R96). The description string is the
host's (92 D23). -/
structure Descriptor where
  /-- the 16-bit opcode, matched on all 16 bits (R100) -/
  opcode  : Word
  /-- response bytes, 0, 3 or 9 (R92) -/
  rlen    : Nat
  /-- settling delay in milliseconds -/
  delayMs : Nat
  deriving DecidableEq, Repr

/-- The host registers (10_state.md R30). Every one of the eight indices is used. -/
inductive Reg where
  | cmd | status | resp0 | resp1 | resp2 | busCause | crcIn | crcOut
  deriving DecidableEq, Repr, Inhabited

/-- One host access: the tuple (`h_we`, `h_addr`, `h_wdata`) of 30_encoding.md R93. `wdata` means nothing in a read. -/
structure Access where
  we    : Bool
  addr  : BitVec 3
  wdata : Word
  deriving DecidableEq, Repr, Inhabited

/-- Which host the external arbiter grants the port to in one cycle (60_exceptions.md R236): none; the host number `k`
whose program State holds; or the host number `k` whose program State does not hold, with the access it presents (log
entry 13). Only a number below NUM_HOSTS is a host's (00_scope.md R10). One grant a cycle: log entry 15. -/
inductive Grant where
  | none
  | loaded (k : Nat)
  | other (k : Nat) (a : Access)
  deriving DecidableEq, Repr, Inhabited

/-- What the agents outside the block present in ONE clock cycle: the reset input, the arbiter's grant, and the
transport's ready and response signals (41_command_framer.md R140; 20_memory.md R66 to R69). Each is a draw. -/
structure Draw where
  rst       : Bool
  grant     : Grant
  tReqReady : Bool
  tRspValid : Bool
  tRspOk    : Bool
  tRspData  : BitVec 72
  tRspCause : Byte
  deriving DecidableEq, Repr, Inhabited

/-- A host variable of the program notation (30_encoding.md R110), named by a number (log entry 14). -/
abbrev Var := Nat

/-- One statement of a host program after assembly (30_encoding.md R110 to R112). The target of a branch is the index of a
statement; an index past the last statement is the end of the program. -/
inductive Stmt where
  | wr  (r : Reg) (imm : Word)
  | rd  (r : Reg) (v : Var)
  | bne (v : Var) (mask val : Word) (target : Nat)
  deriving DecidableEq, Repr

/-- One line of a host program as it is written (30_encoding.md R110 to R114), with the pseudo-statements and with labels
named by numbers. -/
inductive Line where
  | label (l : Nat)
  | wr    (r : Reg) (imm : Word)
  | rd    (r : Reg) (v : Var)
  | bne   (v : Var) (mask val : Word) (l : Nat)
  | waitdone
  | cmd   (i : Instr)
  | exec  (i : Instr)
  deriving DecidableEq, Repr

end Sys2Proof
end

