-- ==== Sys2Proof/WellFormed.lean ====
section
/-! DEFINITION. The checks on syntax. A command has no operand, so no command is ill-formed (30_encoding.md R90, R94); a
catalog descriptor has a response of whole triplets (R92) and one of the catalog's delays (R95); a host program defines
every label it branches to, once (R110). -/

namespace Sys2Proof

/-- No command carries a field that could be out of range (30_encoding.md R90: "no register, immediate, mode or argument
field"). -/
def Instr.wellFormed : Instr → Bool
  | .startPeriodic | .stopPeriodic | .readMeasurement | .getDataReady
  | .getTempOffset | .getSensorAltitude | .getAmbientPressure | .reinit => true

/-- "RLEN ∈ {0, 3, 9}" and a delay "in milliseconds {0, 500, 0, 1, 1, 1, 1, 30}" (00_scope.md R9). -/
def Descriptor.wellFormed (d : Descriptor) : Bool :=
  [0, 3, 9].contains d.rlen && [0, 1, 30, 500].contains d.delayMs

/-- The labels a program defines, in order. -/
def definedLabels : List Line → List Nat
  | [] => []
  | .label l :: ls => l :: definedLabels ls
  | _ :: ls => definedLabels ls

/-- The labels a program branches to, in order. -/
def usedLabels : List Line → List Nat
  | [] => []
  | .bne _ _ _ l :: ls => l :: usedLabels ls
  | _ :: ls => usedLabels ls

/-- Every label used is defined (30_encoding.md R110: "`label:` names the next statement"). -/
def labelsDefined (ls : List Line) : Bool :=
  (usedLabels ls).all (definedLabels ls).contains

/-- No label is defined twice. -/
def labelsDistinct (ls : List Line) : Bool :=
  decide (definedLabels ls).Nodup

/-- A host program that means something. -/
def programWellFormed (ls : List Line) : Bool :=
  labelsDefined ls && labelsDistinct ls

end Sys2Proof
end

