-- ==== Sys2Proof/Decode.lean ====
section
/-! DEFINITION. The command catalog (30_encoding.md R95, a constant table, 10_state.md R54), the decoder (R100) and the
encoder. A command is one 16-bit word (R90, R104); on the bus it is two bytes, the most significant first (20_memory.md
R60). -/

namespace Sys2Proof

/-- The catalog's rows: opcode, response bytes, delay (30_encoding.md R95). -/
def descriptor : Instr → Descriptor
  | .startPeriodic      => { opcode := 0x21B1#16, rlen := 0, delayMs := 0 }
  | .stopPeriodic       => { opcode := 0x3F86#16, rlen := 0, delayMs := 500 }
  | .readMeasurement    => { opcode := 0xEC05#16, rlen := 9, delayMs := 0 }
  | .getDataReady       => { opcode := 0xE4B8#16, rlen := 3, delayMs := 1 }
  | .getTempOffset      => { opcode := 0x2318#16, rlen := 3, delayMs := 1 }
  | .getSensorAltitude  => { opcode := 0x2322#16, rlen := 3, delayMs := 1 }
  | .getAmbientPressure => { opcode := 0xE000#16, rlen := 3, delayMs := 1 }
  | .reinit             => { opcode := 0x3646#16, rlen := 0, delayMs := 30 }

/-- The catalog index of a command, the value CMD_IDX takes (30_encoding.md R95, 10_state.md R29). -/
def catalogIndex : Instr → BitVec 3
  | .startPeriodic      => 0#3
  | .stopPeriodic       => 1#3
  | .readMeasurement    => 2#3
  | .getDataReady       => 3#3
  | .getTempOffset      => 4#3
  | .getSensorAltitude  => 5#3
  | .getAmbientPressure => 6#3
  | .reinit             => 7#3

/-- The catalog's rows in order. -/
def catalog : List Instr :=
  [.startPeriodic, .stopPeriodic, .readMeasurement, .getDataReady,
   .getTempOffset, .getSensorAltitude, .getAmbientPressure, .reinit]

/-- The command at a catalog index. All eight values of the 3-bit index are rows. -/
def catalogAt (idx : BitVec 3) : Instr :=
  catalog.getD idx.toNat .startPeriodic

/-- Words of a response, `WORDS = RLEN / 3` (30_encoding.md R96, exact by 41_command_framer.md R157). -/
def Descriptor.words (d : Descriptor) : Nat := d.rlen / 3

/-- Why a decoder rejects. -/
inductive DecodeError where
  /-- fewer than the two bytes every command has (30_encoding.md R104) -/
  | truncated
  /-- a 16-bit value outside the catalog (R101) -/
  | illegalOpcode (w : Word)
  deriving DecidableEq, Repr

/-- "`CMD_IDX` is the unique idx with `opcode[idx] == w` (comparison of all 16 bits)"; none if no row matches
(30_encoding.md R100, R101). -/
def decodeWord (w : Word) : Option Instr :=
  catalog.find? fun i => (descriptor i).opcode == w

/-- Decode the two bus bytes of a command, B0 = OPCODE[15:8] and B1 = OPCODE[7:0] (30_encoding.md R90), and give the rest of
the bytes. Total on any bytes; a rejection has a name. -/
def decodeBytes : List Byte → Except DecodeError (Instr × List Byte)
  | b0 :: b1 :: rest =>
    match decodeWord (b0 ++ b1) with
    | some i => .ok (i, rest)
    | none => .error (.illegalOpcode (b0 ++ b1))
  | _ => .error .truncated

/-- The word of a command: its opcode is the whole of it (30_encoding.md R90). -/
def encode (i : Instr) : Word := (descriptor i).opcode

/-- The bus bytes of a 16-bit word, "opcode bits 15:8 first, then bits 7:0" (20_memory.md R60). -/
def busBytes (w : Word) : List Byte :=
  [w.extractLsb' 8 8, w.extractLsb' 0 8]

/-- The two bus bytes of a command (20_memory.md R60). -/
def encodeBytes (i : Instr) : List Byte := busBytes (encode i)

/-- The command the decoder reads from an opcode-table word: `nbits` bits of `w`, every bit above them 0. A command is one
16-bit word (30_encoding.md R104), so a longer one is none. -/
def decodeTableWord (nbits w : Nat) : Option Instr :=
  if nbits ≤ 16 then decodeWord (BitVec.ofNat 16 (w % 2 ^ nbits)) else none

end Sys2Proof
end

