-- ==== Sys2Proof/Machine/Operands.lean ====
section
/-! DEFINITION. How operands are assembled: the two bytes of a word (20_memory.md R60 to R62), the host register an index
selects (10_state.md R30), the response's bytes and triplets (30_encoding.md R91, R94; 41_command_framer.md R145), and the
access a host statement presents (R111, R112). -/

namespace Sys2Proof.Machine

/-- The first byte of a word on the bus: bits 15:8 (20_memory.md R62). -/
def hiByte (w : Word) : Byte := w.extractLsb' 8 8

/-- The second byte of a word on the bus: bits 7:0 (20_memory.md R62). -/
def loByte (w : Word) : Byte := w.extractLsb' 0 8

/-- `N = {data_hi, data_lo}` (20_memory.md R61). -/
def wordOf (hi lo : Byte) : Word := hi ++ lo

/-- A byte in the low half of a register whose bits 15:8 read 0 (10_state.md R36, R38). -/
def zeroExtend (b : Byte) : Word := 0x00#8 ++ b

/-- The index of a host register (10_state.md R30). -/
def regIndex : Reg → BitVec 3
  | .cmd => 0#3
  | .status => 1#3
  | .resp0 => 2#3
  | .resp1 => 3#3
  | .resp2 => 4#3
  | .busCause => 5#3
  | .crcIn => 6#3
  | .crcOut => 7#3

/-- The host register an index selects: "Every index is used; no index is reserved" (10_state.md R30). -/
def regAt (idx : BitVec 3) : Reg :=
  [Reg.cmd, .status, .resp0, .resp1, .resp2, .busCause, .crcIn, .crcOut].getD idx.toNat .cmd

/-- `HostWrite(idx(r), v)` as an access tuple (30_encoding.md R111). -/
def writeAccess (r : Reg) (v : Word) : Access := { we := true, addr := regIndex r, wdata := v }

/-- `HostRead(idx(r))` as an access tuple (30_encoding.md R112); a read has no write data. -/
def readAccess (r : Reg) : Access := { we := false, addr := regIndex r, wdata := 0x0000#16 }

/-- Response byte i, `r[i] = t_rsp_data[8i+7 : 8i]` (41_command_framer.md R145). -/
def rspByte (data : BitVec 72) (i : Nat) : Byte := data.extractLsb' (8 * i) 8

/-- The word of triplet k, `{r[3k], r[3k+1]}` (41_command_framer.md R145, R147). -/
def rspWord (data : BitVec 72) (k : Nat) : Word := wordOf (rspByte data (3 * k)) (rspByte data (3 * k + 1))

/-- `crc8(hi, lo) == c`: the triplet (hi, lo, c) verifies (40_crc8.md R125). -/
def tripletOk (hi lo c : Byte) : Bool := crc8 hi lo == c

/-- `ok[k]`: triplet k of a response verifies (41_command_framer.md R145). -/
def rspOk (data : BitVec 72) (k : Nat) : Bool :=
  tripletOk (rspByte data (3 * k)) (rspByte data (3 * k + 1)) (rspByte data (3 * k + 2))

/-- `all_ok` over the first W triplets, true when W = 0 (41_command_framer.md R145). -/
def rspAllOk (data : BitVec 72) : Nat → Bool
  | 0 => true
  | w + 1 => rspAllOk data w && rspOk data w

end Sys2Proof.Machine
end

