-- ==== Sys2Proof/Config.lean ====
section
/-! DEFINITION. What an implementation fixes (00_scope.md R10, R18: the configuration, which is not state) and the free
values of the model. Every open value is an opaque constant without a body: nothing can be proved about which value it has. -/

namespace Sys2Proof.Config

/-- The parameters the source leaves open, "which a model takes as arguments" (00_scope.md R10), with the constraints R10
puts on them. The model's step has one argument, the state, so State carries them in a field that no rule writes
(log entry 1). -/
structure Params where
  /-- CYCLES_PER_MS, clock cycles per millisecond, a positive integer -/
  cyclesPerMs : Nat
  /-- DCNT_W, the width of the delay counter -/
  dcntW : Nat
  /-- NUM_HOSTS, host agents sharing the port -/
  numHosts : Nat
  cyclesPerMs_pos : 0 < cyclesPerMs
  /-- DCNT_W is at least the bit length of 500 × CYCLES_PER_MS -/
  dcntW_fits : 500 * cyclesPerMs < 2 ^ dcntW
  numHosts_pos : 1 ≤ numHosts
  deriving DecidableEq, Repr

/-- CYCLES_PER_MS is this number plus one: any positive integer. -/
opaque cyclesPerMsLessOne : Nat

/-- DCNT_W is the least width R10 allows plus this number. -/
opaque dcntWSpare : Nat

/-- NUM_HOSTS is this number plus one. -/
opaque numHostsLessOne : Nat

/-- The parameters of the chip at hand: any that R10 allows (UNVERIFIED which; log entry 1). -/
def params : Params where
  cyclesPerMs := cyclesPerMsLessOne + 1
  dcntW := Nat.log2 (500 * (cyclesPerMsLessOne + 1)) + 1 + dcntWSpare
  numHosts := numHostsLessOne + 1
  cyclesPerMs_pos := Nat.succ_pos _
  dcntW_fits := lt_of_lt_of_le Nat.lt_log2_self (Nat.pow_le_pow_right (by decide) (Nat.le_add_right _ _))
  numHosts_pos := Nat.succ_pos _

/-- What the agents present in cycle `n` once the schedule that State holds has run out (00_scope.md R18, 92 D13, D27, D30;
log entry 3). -/
opaque freeDraw : Nat → Draw

/-- What variable `v` of host `k` holds before the host's program has written it: the spec does not say (log entry 8). -/
opaque freeVar : Nat → Var → Word

/-- The block's identity for this spec (00_scope.md R1). No register holds it. -/
def identity : String := "SCD4X-FRAMER/crc8-0x31-ff/cat8"

/-- The fixed 7-bit I²C target address (00_scope.md R9, 20_memory.md R65). -/
def i2cAddr : BitVec 7 := 0x62#7

end Sys2Proof.Config
end

