-- ==== Sys2Proof/Machine/State.lean ====
section
/-! DEFINITION. The state of the machine as plain data: the block's stored elements exactly as 10_state.md R57 lists
them, the host agents whose programs are held (R18, R236), the schedule of what the outside presents, and the parameters.
BUSY, STATUS, CRC_OUT and the block's outputs are functions of this (R57) and not stored; the transport's in-flight transaction
is PHASE = WAIT with CMD_OP and CMD_IDX (R56), so it is not stored twice. -/

namespace Sys2Proof.Machine

/-- `PHASE[1:0]` (10_state.md R21, 92 D28). All four codes are used. -/
inductive Phase where
  | idle
  | req
  | wait
  | delay
  deriving DecidableEq, Repr, Inhabited

/-- `ERR[1:0]` (10_state.md R24, 60_exceptions.md R220). All four codes are used. -/
inductive ErrCode where
  | none
  | busError
  | crcMismatch
  | illegalCmd
  deriving DecidableEq, Repr, Inhabited

/-- The bus handle that `open` is given and stores (46_host_sequences.md R199). It names a bus that it does not own
(60_exceptions.md R235). That it is a number is the model's choice (DESIGN CHOICE, log entry 17). -/
structure BusHandle where
  name : Nat
  deriving DecidableEq, Repr, Inhabited

/-- A host agent whose program the model holds: its statements, the index of its next one, its variables (the written ones,
keys strictly rising), and what its handle stores, the unit preference (default Celsius) and the bus handle
(46_host_sequences.md R199). -/
structure HostAgent where
  prog       : List Stmt
  pc         : Nat := 0
  vars       : List (Var × Word) := []
  fahrenheit : Bool := false
  bus        : BusHandle := { name := 0 }
  deriving DecidableEq, Repr

/-- The machine stops with a fault: never. "No other error exists" than the three that a command RECORDS (60_exceptions.md
R224), a host access never errs, and a transport that never answers is a hang, which is a next state. -/
inductive Fault where
  deriving DecidableEq, Repr

/-- The model gives no meaning. -/
inductive Refusal where
  /-- An instruction of the opcode table that exec has no meaning for yet; only a rejected arm of exec raises it, and no arm
  is rejected. Safe: the machine stops. -/
  | notModelled (mnemonic : String)
  deriving DecidableEq, Repr

/-- The whole machine. -/
structure State where
  /-- PHASE, R21 -/
  phase    : Phase
  /-- CMD_OP, R28 -/
  cmdOp    : Word
  /-- CMD_IDX, R29 -/
  cmdIdx   : BitVec 3
  /-- DONE, R23 -/
  done     : Bool
  /-- ERR, R24 -/
  err      : ErrCode
  /-- NWORDS, R25 -/
  nwords   : BitVec 2
  /-- RESP[0], R26 -/
  resp0    : Word
  /-- RESP[1], R26 -/
  resp1    : Word
  /-- RESP[2], R26 -/
  resp2    : Word
  /-- CAUSE, R27 -/
  cause    : Byte
  /-- DCNT, R39: the value of a DCNT_W-bit counter (log entry 2) -/
  dcnt     : Nat
  /-- CRC_IN_REG, R53 -/
  crcInReg : Word
  /-- The host agents whose programs are held, host `k` at position `k` (R18, R236; log entry 13). -/
  hosts    : List HostAgent
  /-- What the outside presents in the coming cycles, this cycle first (the model's own; log entry 3). -/
  env      : List Draw
  /-- Cycles since the run began: the index of the free draws (the model's own; log entry 3). -/
  cycle    : Nat
  /-- The parameters; no rule writes them (R10, R18; log entry 1). -/
  config   : Config.Params
  deriving DecidableEq, Repr

/-- The machine right after reset: every stored element at the value of 10_state.md R40 to R49. The model's own fields: no
host program is loaded, nothing is scheduled, the cycle count is 0, the parameters are those of the chip (log entries 1,
3, 4 and 13; DESIGN CHOICE). -/
def State.reset : State where
  phase    := .idle
  cmdOp    := 0x0000#16
  cmdIdx   := 0#3
  done     := false
  err      := .none
  nwords   := 0#2
  resp0    := 0x0000#16
  resp1    := 0x0000#16
  resp2    := 0x0000#16
  cause    := 0x00#8
  dcnt     := 0
  crcInReg := 0x0000#16
  hosts    := []
  env      := []
  cycle    := 0
  config   := Config.params

end Sys2Proof.Machine
end

