-- ==== Sys2Proof/Machine/Flags.lean ====
section
/-! DEFINITION. The status flags and the host's read of every register: the codes of PHASE and ERR, BUSY, the STATUS word and
CRC_OUT (10_state.md R21 to R38, 41_command_framer.md R154). A read is a function of the state and changes nothing. -/

namespace Sys2Proof.Machine

/-- The code of PHASE (10_state.md R21). -/
def phaseCode : Phase → BitVec 2
  | .idle => 0#2
  | .req => 1#2
  | .wait => 2#2
  | .delay => 3#2

/-- The code of ERR (60_exceptions.md R220). -/
def errBits : ErrCode → BitVec 2
  | .none => 0#2
  | .busError => 1#2
  | .crcMismatch => 2#2
  | .illegalCmd => 3#2

/-- `BUSY = (PHASE ≠ 0)` (10_state.md R22). -/
def busy (s : State) : Bool := s.phase != .idle

/-- `STATUS = {8'h00, PHASE, NWORDS, ERR, DONE, BUSY}` (10_state.md R32). -/
def statusWord (s : State) : Word :=
  0x00#8 ++ phaseCode s.phase ++ s.nwords ++ errBits s.err ++ BitVec.ofBool s.done ++ BitVec.ofBool (busy s)

/-- CRC_OUT: `{8'h00, crc8(CRC_IN_REG[15:8], CRC_IN_REG[7:0])}` (10_state.md R38, 40_crc8.md R128). -/
def crcOut (s : State) : Word := zeroExtend (crc8 (hiByte s.crcInReg) (loByte s.crcInReg))

/-- The value a host reads (41_command_framer.md R154). -/
def readReg (r : Reg) (s : State) : Word :=
  match r with
  | .cmd => s.cmdOp
  | .status => statusWord s
  | .resp0 => s.resp0
  | .resp1 => s.resp1
  | .resp2 => s.resp2
  | .busCause => zeroExtend s.cause
  | .crcIn => s.crcInReg
  | .crcOut => crcOut s

end Sys2Proof.Machine
end

