-- ==== Sys2Proof/Machine/HostAgent.lean ====
section
/-! DEFINITION. The host agents (00_scope.md R18): a host runs its program in program order, one register access in a cycle
it is granted (60_exceptions.md R236), a CMD write held by the block stays its next statement (41_command_framer.md R141,
30_encoding.md R111), and branches take no block cycle (95_test_vectors.md, conventions). Also the assembly of the program
notation (R110 to R114). -/

namespace Sys2Proof.Machine

/-- The value of a written variable. -/
def lookupVar : List (Var × Word) → Var → Option Word
  | [], _ => none
  | (u, x) :: vs, v => if u = v then some x else lookupVar vs v

/-- Write a variable; the keys stay strictly rising. -/
def setVar : List (Var × Word) → Var → Word → List (Var × Word)
  | [], v, x => [(v, x)]
  | (u, y) :: vs, v, x =>
    if v < u then (v, x) :: (u, y) :: vs
    else if v = u then (v, x) :: vs
    else (u, y) :: setVar vs v x

/-- What variable `v` of host `k` holds: a free value before the program has written it (log entry 8). -/
def varValue (k : Nat) (vars : List (Var × Word)) (v : Var) : Word :=
  (lookupVar vars v).getD (Config.freeVar k v)

/-- "branch if `(v & mask) ≠ val`" (30_encoding.md R110). -/
def branchTaken (x mask val : Word) : Bool := x &&& mask != val

/-- At most `n` branches of host `k`, up to its next statement that is none. -/
def runBranches (k : Nat) : Nat → HostAgent → HostAgent
  | 0, h => h
  | n + 1, h =>
    match h.prog[h.pc]? with
    | some (.bne v mask val target) =>
      runBranches k n { h with pc := if branchTaken (varValue k h.vars v) mask val then target else h.pc + 1 }
    | _ => h

/-- The host at its next access: all its branches run. A program of `n` statements that has not reached an access after `n`
branches repeats a branch, so it never reaches one (log entry 7). -/
def atAccess (k : Nat) (h : HostAgent) : HostAgent := runBranches k h.prog.length h

/-- The host's next statement, branches run; none past the last statement, the end of the program (30_encoding.md R110). -/
def nextStmt (k : Nat) (h : HostAgent) : Option Stmt := (atAccess k h).prog[(atAccess k h).pc]?

/-- The access the host presents when it is granted the port (30_encoding.md R111, R112). -/
def hostAccess (k : Nat) (h : HostAgent) : Option Access :=
  match nextStmt k h with
  | some (.wr r v) => some (writeAccess r v)
  | some (.rd r _) => some (readAccess r)
  | _ => none

/-- The host after a granted cycle: a write finishes when the block performs it (30_encoding.md R111; a write not performed
is presented again), a read always finishes and stores `rdata` (R112). -/
def hostAfterAccess (k : Nat) (performed : Bool) (rdata : Word) (h : HostAgent) : HostAgent :=
  match nextStmt k h with
  | some (.wr _ _) =>
    if performed then { atAccess k h with pc := (atAccess k h).pc + 1 } else atAccess k h
  | some (.rd _ v) =>
    { atAccess k h with pc := (atAccess k h).pc + 1, vars := setVar h.vars v rdata }
  | _ => atAccess k h

/-- The host's program has run past its last statement (30_encoding.md R110). -/
def hostEnded (k : Nat) (h : HostAgent) : Bool := (atAccess k h).prog.length ≤ (atAccess k h).pc

/-- The variable `s` of WAITDONE (30_encoding.md R113). -/
def varS : Var := 0

/-- The number of statements of a line. -/
def lineSize : Line → Nat
  | .label _ => 0
  | .wr _ _ => 1
  | .rd _ _ => 1
  | .bne _ _ _ _ => 1
  | .waitdone => 2
  | .cmd _ => 1
  | .exec _ => 3

/-- The index of the statement that follows label `l`; the lines given start at statement `pos`. -/
def labelPos (l : Nat) : List Line → Nat → Option Nat
  | [], _ => none
  | .label l' :: ls, pos => if l' = l then some pos else labelPos l ls pos
  | x :: ls, pos => labelPos l ls (pos + lineSize x)

/-- WAITDONE at statement `pos`: read STATUS into `s`, and again until BUSY = 0 and DONE = 1 (30_encoding.md R113). -/
def waitdoneStmts (pos : Nat) : List Stmt :=
  [.rd .status varS, .bne varS 0x0003#16 0x0002#16 pos]

/-- `CMD.<mnemonic>`: write the opcode to CMD (30_encoding.md R114). -/
def cmdStmt (i : Instr) : Stmt := .wr .cmd (encode i)

/-- The statements of one line at statement `pos` of the program `all`; none if it branches to a label that is not there. -/
def lineStmts (all : List Line) (pos : Nat) : Line → Option (List Stmt)
  | .label _ => some []
  | .wr r v => some [.wr r v]
  | .rd r v => some [.rd r v]
  | .bne v mask val l => (labelPos l all 0).map fun t => [.bne v mask val t]
  | .waitdone => some (waitdoneStmts pos)
  | .cmd i => some [cmdStmt i]
  | .exec i => some (cmdStmt i :: waitdoneStmts (pos + 1))

/-- The statements of the lines from statement `pos` of the program `all` on. -/
def assembleFrom (all : List Line) : List Line → Nat → Option (List Stmt)
  | [], _ => some []
  | x :: ls, pos =>
    match lineStmts all pos x, assembleFrom all ls (pos + lineSize x) with
    | some a, some b => some (a ++ b)
    | _, _ => none

/-- Expand the pseudo-statements and resolve the labels of a host program (30_encoding.md R110 to R114). -/
def assemble (ls : List Line) : Option (List Stmt) := assembleFrom ls ls 0

end Sys2Proof.Machine
end

