-- ==== Sys2Proof/Machine/Port.lean ====
section
/-! DEFINITION. The block's ports in one cycle: what the outside presents (the draw of the cycle and the granted host's
access), the block's outputs as functions of state and inputs (10_state.md R57), which command the block runs in the cycle,
and how the agents outside the block go on to the next cycle. -/

namespace Sys2Proof.Machine

/-- What the outside presents `k` cycles from now: from the schedule, and past its end a free draw (log entry 3). -/
def drawAt (s : State) (k : Nat) : Draw := (s.env[k]?).getD (Config.freeDraw (s.cycle + k))

/-- What the outside presents in this cycle (41_command_framer.md R140). -/
def draw (s : State) : Draw := drawAt s 0

/-- `k` is the number of one of the NUM_HOSTS hosts, counted from 0. Host 0 is there whatever NUM_HOSTS is: "≥ 1" (00_scope.md
R10). -/
def isHost (s : State) : Nat → Bool
  | 0 => true
  | k + 1 => decide (k + 1 < s.config.numHosts)

/-- The host of a loaded program that is granted the port in this cycle, if its number is a host's (60_exceptions.md R236). -/
def grantedHost (s : State) : Option (Nat × HostAgent) :=
  match (draw s).grant with
  | .loaded k => if isHost s k then (s.hosts[k]?).map fun h => (k, h) else none
  | _ => none

/-- The one host access of this cycle, if any: `h_sel` with (`h_we`, `h_addr`, `h_wdata`) (41_command_framer.md R140,
60_exceptions.md R236). A host whose program State holds presents its program's access and no other, and an agent that is
none of the NUM_HOSTS hosts presents none (00_scope.md R10). -/
def portAccess (s : State) : Option Access :=
  match (draw s).grant with
  | .none => none
  | .other k a => if isHost s k && (s.hosts[k]?).isNone then some a else none
  | .loaded _ => (grantedHost s).bind fun kh => hostAccess kh.1 kh.2

/-- The value a host write to register `r` presents in this cycle, if there is one. -/
def writeData (r : Reg) (s : State) : Option Word :=
  match portAccess s with
  | some a => if a.we = true ∧ a.addr = regIndex r then some a.wdata else none
  | none => none

/-- `h_wait = h_sel & h_we & (h_addr == 0) & (PHASE ≠ IDLE)` (41_command_framer.md R141), and 0 in a reset cycle
(70_reset_and_hazards.md R254). -/
def hWait (s : State) : Bool := !(draw s).rst && (writeData .cmd s).isSome && busy s

/-- `h_rdata` of a host read: the register's value at the start of the cycle (41_command_framer.md R154); none in a cycle
without a read, where the spec gives it no value (log entry 10). -/
def hRdata (s : State) : Option Word :=
  match portAccess s with
  | some a => if a.we then none else some (readReg (regAt a.addr) s)
  | none => none

/-- A transaction request: `t_wdata[15:0]` and `t_rlen[3:0]` (20_memory.md R66, 30_encoding.md R96). -/
structure Request where
  wdata : Word
  rlen  : BitVec 4
  deriving DecidableEq, Repr

/-- A transaction on the bus: the 7-bit target, the bytes written, and how many are then read (20_memory.md R60, R64 to
R67). -/
structure Transaction where
  addr   : BitVec 7
  wbytes : List Byte
  rlen   : Nat
  deriving DecidableEq, Repr

/-- The command of the catalog index CMD_IDX: the one in flight when PHASE ≠ IDLE (10_state.md R29). -/
def inFlight (s : State) : Instr := catalogAt s.cmdIdx

/-- The request of the command in flight: `t_wdata = CMD_OP`, `t_rlen = RLEN[CMD_IDX]` (20_memory.md R66). -/
def requestOf (s : State) : Request := { wdata := s.cmdOp, rlen := BitVec.ofNat 4 (descriptor (inFlight s)).rlen }

/-- The request channel: `some` is `t_req_valid = 1`, in every cycle with PHASE = REQ and in no other (20_memory.md R66,
41_command_framer.md R144), reset cycles included: the 0 of 10_state.md R50 is that of its own reason "(PHASE = IDLE)"
(DEDUCED, log entry 5). -/
def tRequest (s : State) : Option Request := if s.phase = .req then some (requestOf s) else none

/-- The bus transaction a request asks for (20_memory.md R66: "write the two bytes `t_wdata[15:8]`, `t_wdata[7:0]`, then read
`t_rlen` bytes"). -/
def transactionOf (r : Request) : Transaction :=
  { addr := Config.i2cAddr, wbytes := busBytes r.wdata, rlen := r.rlen.toNat }

/-- The transport agent's transaction in flight, between the request handshake and the response (10_state.md R56, 20_memory.md
R68): it is in flight exactly in PHASE WAIT (log entry 9). -/
def transportBusy (s : State) : Option Request := if s.phase = .wait then some (requestOf s) else none

/-- What the block does with the command port in a cycle without reset. -/
inductive Fetched where
  /-- the command in flight goes on, or a command is accepted -/
  | command (i : Instr)
  /-- an illegal opcode is rejected -/
  | illegal (w : Word)
  /-- idle, and no CMD write -/
  | nothing
  deriving DecidableEq, Repr

/-- The arms of 41_command_framer.md R140: with PHASE ≠ IDLE the command in flight runs (a CMD write is held, R141); with
PHASE = IDLE a CMD write is decoded (30_encoding.md R100, R101). -/
def fetch (s : State) : Fetched :=
  if s.phase = .idle then
    match writeData .cmd s with
    | some w =>
      match decodeWord w with
      | some i => .command i
      | none => .illegal w
    | none => .nothing
  else .command (inFlight s)

/-- A host write presented in this cycle is performed: not in a reset cycle (70_reset_and_hazards.md R254) and not while it
is held (41_command_framer.md R141). -/
def writePerformed (s : State) : Bool := !(draw s).rst && !hWait s

/-- The hosts after this cycle: only the granted one moves (60_exceptions.md R236; in a reset cycle log entry 6). -/
def hostsAfter (s : State) : List HostAgent :=
  match grantedHost s with
  | some (k, h) => s.hosts.set k (hostAfterAccess k (writePerformed s) ((hRdata s).getD 0#16) h)
  | none => s.hosts

/-- `t`, the block after this cycle from `s`, with the agents outside it gone on by one cycle. -/
def advance (s t : State) : State :=
  { t with hosts := hostsAfter s, env := s.env.tail, cycle := s.cycle + 1 }

/-- `t` with CRC_IN written, if a host writes it in this cycle: in any phase, never held (40_crc8.md R127, 10_state.md
R37). -/
def crcPort (s t : State) : State :=
  match writeData .crcIn s with
  | some w => { t with crcInReg := w }
  | none => t

end Sys2Proof.Machine
end

