-- ==== Sys2Proof/Machine/Ops.lean ====
section
/-! DEFINITION. The sequencer's operations, shared by every command (41_command_framer.md): reset (70_reset_and_hazards.md
R250), accept, reject, request, response with the recording of its outcome (60_exceptions.md R220 to R226: an error is a
recorded outcome, never a change of control flow), delay and completion, and the one cycle of a command that is made of
them. All of them read the state at the start of the cycle. -/

namespace Sys2Proof.Machine

/-- "every stored element takes its reset value" (70_reset_and_hazards.md R250). The parameters and the agents outside the
block are not the block's elements. -/
def resetBlock (s : State) : State :=
  { s with
    phase := .idle, cmdOp := 0x0000#16, cmdIdx := 0#3, done := false, err := .none, nwords := 0#2,
    resp0 := 0x0000#16, resp1 := 0x0000#16, resp2 := 0x0000#16, cause := 0x00#8, dcnt := 0,
    crcInReg := 0x0000#16 }

/-- The record of an outcome is cleared: NWORDS, RESP[0..2] and CAUSE to 0 (41_command_framer.md R142, R143;
60_exceptions.md R228). -/
def clearResult (s : State) : State :=
  { s with nwords := 0#2, resp0 := 0x0000#16, resp1 := 0x0000#16, resp2 := 0x0000#16, cause := 0x00#8 }

/-- Accept a legal opcode (41_command_framer.md R142). -/
def accept (i : Instr) (s : State) : State :=
  { clearResult s with
    cmdOp := encode i, cmdIdx := catalogIndex i, phase := .req, done := false, err := .none }

/-- Reject an illegal opcode: ILLEGAL_CMD is recorded and the command is complete at once (41_command_framer.md R143,
60_exceptions.md R223). PHASE stays IDLE and CMD_IDX is not written. -/
def reject (w : Word) (s : State) : State :=
  { clearResult s with cmdOp := w, done := true, err := .illegalCmd }

/-- PHASE REQ: the request is presented (`tRequest`) until the transport takes it (41_command_framer.md R144). -/
def requestCycle (s : State) : State :=
  if (draw s).tReqReady then { s with phase := .wait } else s

/-- A bus error is recorded with its cause; the CRCs are not looked at (41_command_framer.md R146, 60_exceptions.md R221). -/
def recordBusError (cause : Byte) (s : State) : State :=
  { s with err := .busError, cause := cause }

/-- A CRC mismatch is recorded and every word discarded (41_command_framer.md R147, 60_exceptions.md R222). -/
def recordCrcMismatch (s : State) : State := { s with err := .crcMismatch }

/-- The W verified words of a response are recorded; RESP[k] for k ≥ W is left (41_command_framer.md R147). -/
def recordWords (w : Nat) (data : BitVec 72) (s : State) : State :=
  { s with
    err := .none
    nwords := BitVec.ofNat 2 w
    resp0 := if 0 < w then rspWord data 0 else s.resp0
    resp1 := if 1 < w then rspWord data 1 else s.resp1
    resp2 := if 2 < w then rspWord data 2 else s.resp2 }

/-- Bus success (41_command_framer.md R147): a write-only command succeeds, a read succeeds iff every triplet verifies. -/
def recordSuccess (d : Descriptor) (data : BitVec 72) (s : State) : State :=
  if d.words = 0 then { s with err := .none }
  else if rspAllOk data d.words then recordWords d.words data s
  else recordCrcMismatch s

/-- The outcome of a response (41_command_framer.md R146, R147; priority 60_exceptions.md R225). -/
def recordOutcome (d : Descriptor) (ok : Bool) (data : BitVec 72) (cause : Byte) (s : State) : State :=
  if ok then recordSuccess d data s else recordBusError cause s

/-- A command completes: PHASE returns to IDLE and DONE is set (41_command_framer.md R150). -/
def complete (s : State) : State := { s with phase := .idle, done := true }

/-- The settling delay of a command in cycles, `DELAY_MS × CYCLES_PER_MS`, exact (41_command_framer.md R148, R157). -/
def delayCycles (d : Descriptor) (s : State) : Nat := d.delayMs * s.config.cyclesPerMs

/-- The end of the transaction, whatever its outcome (41_command_framer.md R148, 92 D10). -/
def endTransaction (d : Descriptor) (s : State) : State :=
  if 0 < delayCycles d s then { s with dcnt := delayCycles d s, phase := .delay } else complete s

/-- PHASE WAIT: the response is awaited without limit (20_memory.md R69), then its outcome is recorded and the transaction
ends (41_command_framer.md R145 to R148). -/
def responseCycle (d : Descriptor) (s : State) : State :=
  if (draw s).tRspValid then
    endTransaction d (recordOutcome d (draw s).tRspOk (draw s).tRspData (draw s).tRspCause s)
  else s

/-- DCNT - 1 in DCNT_W bits. The value 0 is met in no run (41_command_framer.md R149, R157: "it never wraps"); log entry 2. -/
def decrement (s : State) : Nat := if s.dcnt = 0 then 2 ^ s.config.dcntW - 1 else s.dcnt - 1

/-- PHASE DELAY: count down, and complete when DCNT is 1 (41_command_framer.md R149). -/
def delayCycle (s : State) : State :=
  if s.dcnt = 1 then complete { s with dcnt := 0 } else { s with dcnt := decrement s }

/-- One clock cycle of the sequencer for command `i`: accepted in IDLE, then in flight through the phases REQ, WAIT and
DELAY (41_command_framer.md R140, R153: "each accepted command runs the fixed phase sequence"; log entry 4). -/
def commandCycle (i : Instr) (s : State) : State :=
  match s.phase with
  | .idle => accept i s
  | .req => requestCycle s
  | .wait => responseCycle (descriptor i) s
  | .delay => delayCycle s

end Sys2Proof.Machine
end

