-- ==== Sys2Proof/Machine/ReadCommands.lean ====
section
/-! DEFINITION. The five reading commands (42_sensor_commands.md R172 to R176): one or three triplets, every CRC checked
before a word is recorded. Each meaning is one clock cycle of the command; its opcode, RLEN and delay are its catalog row. -/

namespace Sys2Proof.Machine

/-- READ_MEASUREMENT: opcode 0xEC05, three words (CO₂, temperature, humidity), no delay (42_sensor_commands.md R172). -/
def execReadMeasurement (s : State) : Host.Outcome State Fault Refusal := .next (commandCycle .readMeasurement s)

/-- GET_DATA_READY: opcode 0xE4B8, one word, 1 ms (42_sensor_commands.md R173). -/
def execGetDataReady (s : State) : Host.Outcome State Fault Refusal := .next (commandCycle .getDataReady s)

/-- GET_TEMP_OFFSET: opcode 0x2318, one word, 1 ms (42_sensor_commands.md R174). -/
def execGetTempOffset (s : State) : Host.Outcome State Fault Refusal := .next (commandCycle .getTempOffset s)

/-- GET_SENSOR_ALTITUDE: opcode 0x2322, one word, 1 ms (42_sensor_commands.md R175). -/
def execGetSensorAltitude (s : State) : Host.Outcome State Fault Refusal := .next (commandCycle .getSensorAltitude s)

/-- GET_AMBIENT_PRESSURE: opcode 0xE000, one word, 1 ms (42_sensor_commands.md R176). -/
def execGetAmbientPressure (s : State) : Host.Outcome State Fault Refusal := .next (commandCycle .getAmbientPressure s)

end Sys2Proof.Machine
end

