-- ==== Sys2Proof/Machine/WriteCommands.lean ====
section
/-! DEFINITION. The three write-only commands (42_sensor_commands.md R170, R171, R177): no read phase, so the only error is
BUS_ERROR. Each meaning is one clock cycle of the command; its opcode, RLEN 0 and delay are its catalog row. -/

namespace Sys2Proof.Machine

/-- START_PERIODIC: opcode 0x21B1, no response, no delay (42_sensor_commands.md R170). -/
def execStartPeriodic (s : State) : Host.Outcome State Fault Refusal := .next (commandCycle .startPeriodic s)

/-- STOP_PERIODIC: opcode 0x3F86, no response, 500 ms (42_sensor_commands.md R171). -/
def execStopPeriodic (s : State) : Host.Outcome State Fault Refusal := .next (commandCycle .stopPeriodic s)

/-- REINIT: opcode 0x3646, no response, 30 ms (42_sensor_commands.md R177). -/
def execReinit (s : State) : Host.Outcome State Fault Refusal := .next (commandCycle .reinit s)

end Sys2Proof.Machine
end

