-- ==== Sys2Proof/Machine/Dispatch.lean ====
section
/-! DEFINITION. One arm per command of the catalog, each a direct call of its meaning. -/

namespace Sys2Proof.Machine

def exec (i : Instr) (s : State) : Host.Outcome State Fault Refusal :=
  match i with
  | .startPeriodic => Sys2Proof.Machine.execStartPeriodic s
  | .stopPeriodic => Sys2Proof.Machine.execStopPeriodic s
  | .readMeasurement => Sys2Proof.Machine.execReadMeasurement s
  | .getDataReady => Sys2Proof.Machine.execGetDataReady s
  | .getTempOffset => Sys2Proof.Machine.execGetTempOffset s
  | .getSensorAltitude => Sys2Proof.Machine.execGetSensorAltitude s
  | .getAmbientPressure => Sys2Proof.Machine.execGetAmbientPressure s
  | .reinit => Sys2Proof.Machine.execReinit s

end Sys2Proof.Machine
end

