-- ==== Sys2Proof/Machine/Step.lean ====
section
/-! DEFINITION. One step: one rising edge of `clk` (41_command_framer.md R140). Reset overrides everything (R156); otherwise
the command port runs its command, rejects an illegal opcode or does nothing, the CRC port is written beside it, and the
agents outside the block go on. -/

namespace Sys2Proof.Machine

/-- One clock cycle (41_command_framer.md R140). -/
def step (s : State) : Host.Outcome State Fault Refusal :=
  if (draw s).rst then .next (advance s (resetBlock s))
  else
    match fetch s with
    | .command i =>
      match exec i s with
      | .next t => .next (advance s (crcPort s t))
      | .fault r => .fault r
      | .refused r => .refused r
    | .illegal w => .next (advance s (crcPort s (reject w s)))
    | .nothing => .next (advance s (crcPort s s))

/-- A host whose program is the one statement `WR CMD, w`. -/
def fetchHost (w : Word) : HostAgent := { prog := [.wr .cmd w] }

/-- The cycle in which host 0 is granted the port and nothing else is presented. -/
def fetchDraw : Draw :=
  { rst := false, grant := .loaded 0, tReqReady := false, tRspValid := false, tRspOk := false, tRspData := 0#72,
    tRspCause := 0#8 }

/-- `s` with the command word `w` (its low `nbits` bits) at the command port: host 0, which every block has, is loaded with the
program that writes it to CMD, and the next cycle, put before whatever is scheduled, grants it the port. A command is fetched
only in PHASE IDLE (41_command_framer.md R141), so a block that is busy is put there, with the counter at rest (log
entry 4). -/
def State.withFetchWord (s : State) (nbits w : Nat) : State :=
  { s with
    phase := .idle, dcnt := 0
    hosts := fetchHost (BitVec.ofNat 16 (w % 2 ^ nbits)) :: s.hosts.tail
    env := fetchDraw :: s.env }

end Sys2Proof.Machine
end

