-- ==== Sys2Proof/Machine/HostLib.lean ====
section
/-! DEFINITION. The source's library operations as host programs over the block (46_host_sequences.md R190 to R199), and the
conversions of raw words in exact rational arithmetic (00_scope.md R14, R200 to R205). They are host software (00_scope.md
R6): State holds such a program in a host agent, and the block runs the commands it writes. -/

namespace Sys2Proof.Machine

/-- `temp(N) = −45 + 175·N/65536` °C (46_host_sequences.md R200). -/
def temp (n : Word) : Rat := -45 + 175 * (n.toNat : Rat) / 65536

/-- `rh(N) = 100·N/65536` % (46_host_sequences.md R201). -/
def rh (n : Word) : Rat := 100 * (n.toNat : Rat) / 65536

/-- `co2(N) = N` ppm (46_host_sequences.md R202). -/
def co2 (n : Word) : Nat := n.toNat

/-- `f(c) = 9c/5 + 32` (46_host_sequences.md R203). -/
def fahrenheitOf (c : Rat) : Rat := 9 * c / 5 + 32

/-- `ready(N) = (N & 0x07FF) ≠ 0`; bits 15:11 are ignored (46_host_sequences.md R205). -/
def dataReadyFlag (n : Word) : Bool := n &&& 0x07FF#16 != 0x0000#16

/-- The library operations but `open`, which is `openHandle` (46_host_sequences.md R191 to R198). -/
inductive LibOp where
  | init | startMeasurements | stopMeasurements | dataReady | readMeasurement
  | getTemperatureOffset | getSensorAltitude | getAmbientPressure
  deriving DecidableEq, Repr

/-- `open(bus, fahrenheit)`: "Pure constructor; performs no I/O. Stores the bus handle and unit preference."; no block access,
Celsius by default (46_host_sequences.md R199). -/
def openHandle (bus : BusHandle) (fahrenheit : Bool := false) : HostAgent :=
  { prog := [], fahrenheit := fahrenheit, bus := bus }

/-- The commands an operation issues, in order (46_host_sequences.md R191 to R198). -/
def libCommands : LibOp → List Instr
  | .init => [.stopPeriodic, .reinit]
  | .startMeasurements => [.startPeriodic]
  | .stopMeasurements => [.stopPeriodic]
  | .dataReady => [.getDataReady]
  | .readMeasurement => [.readMeasurement]
  | .getTemperatureOffset => [.getTempOffset]
  | .getSensorAltitude => [.getSensorAltitude]
  | .getAmbientPressure => [.getAmbientPressure]

/-- The variables of the operations: the words read, and of a failure the opcode and the cause. -/
def varN0 : Var := 1
/-- The second word. -/
def varN1 : Var := 2
/-- The third word. -/
def varN2 : Var := 3
/-- The failing command's opcode (46_host_sequences.md R190: "CMD reads it back"). -/
def varOp : Var := 4
/-- The transport-level cause (46_host_sequences.md R190: BUS_CAUSE). -/
def varCause : Var := 5

/-- The reads of an operation's results (46_host_sequences.md R194 to R198). -/
def libReads : LibOp → List Line
  | .init | .startMeasurements | .stopMeasurements => []
  | .dataReady | .getTemperatureOffset | .getSensorAltitude | .getAmbientPressure => [.rd .resp0 varN0]
  | .readMeasurement => [.rd .resp0 varN0, .rd .resp1 varN1, .rd .resp2 varN2]

/-- `EXEC m`, then fail if `s.ERR ≠ 0` (46_host_sequences.md R190, R191); label 0 is the failure path. -/
def execOrFail (i : Instr) : List Line := [.exec i, .bne varS 0x000C#16 0x0000#16 0]

/-- The program of an operation (46_host_sequences.md R190 to R198): its commands, each checked; its reads; and on a failure
the opcode and the cause (log entry 12). Label 1 is the end. -/
def libProgram (op : LibOp) : List Line :=
  (libCommands op).flatMap execOrFail ++ libReads op ++
  [.bne varS 0x0000#16 0x0001#16 1, .label 0, .rd .cmd varOp, .rd .busCause varCause, .label 1]

/-- A host with an operation's program loaded, on the handle `h`, which keeps its bus handle and its unit preference, "fixed for
the handle's life" (46_host_sequences.md R199); none if the program has an unresolved label. -/
def loadLibOp (op : LibOp) (h : HostAgent) : Option HostAgent :=
  (assemble (libProgram op)).map fun p => { h with prog := p, pc := 0, vars := [] }

/-- The source's name of a command, the column "source name" of 30_encoding.md R95. That it stands for the human description of the
command's descriptor (00_scope.md R16), which a host's error carries (46_host_sequences.md R190), is the model's choice: the spec
gives one such string as an example, "read sensor metrics" of READ_MEASUREMENT, and not the others (91_not_in_source.md
N18; DESIGN CHOICE, log entry 18). No definition reads it: an error of the model names its command by the opcode. -/
def sourceName : Instr → String
  | .startPeriodic => "start periodic measurement"
  | .stopPeriodic => "stop periodic measurement"
  | .readMeasurement => "read measurement"
  | .getDataReady => "get data ready status"
  | .getTempOffset => "get temperature offset"
  | .getSensorAltitude => "get sensor altitude"
  | .getAmbientPressure => "get ambient pressure"
  | .reinit => "reinitialize"

/-- The failure of an operation, naming the command by its opcode (46_host_sequences.md R190). -/
inductive LibError where
  | busError (cmd : Word) (cause : Byte)
  | crcMismatch (cmd : Word)
  /-- never of a command of the operation itself; another host's illegal command can show it (70_reset_and_hazards.md R263;
  log entry 16) -/
  | illegalCmd (cmd : Word)
  deriving DecidableEq, Repr

/-- What an operation returns (46_host_sequences.md R191 to R198). -/
inductive LibValue where
  | unit
  | ready (b : Bool)
  | reading (co2 : Nat) (temp rh : Rat)
  | celsius (t : Rat)
  | meters (n : Nat)
  | hPa (n : Nat)
  deriving DecidableEq

/-- The code of ERR in a STATUS word, bits 3:2 (10_state.md R32). -/
def statusErr (s : Word) : ErrCode :=
  [ErrCode.none, .busError, .crcMismatch, .illegalCmd].getD (s.extractLsb' 2 2).toNat .none

/-- The temperature of a measurement in the handle's unit (46_host_sequences.md R195, R203). -/
def reportedTemp (fahrenheit : Bool) (n : Word) : Rat :=
  if fahrenheit then fahrenheitOf (temp n) else temp n

/-- The value of a successful operation from the words it read; the temperature offset is Celsius whatever the flag
(46_host_sequences.md R194 to R198). -/
def libValue (op : LibOp) (fahrenheit : Bool) (n0 n1 n2 : Word) : LibValue :=
  match op with
  | .init | .startMeasurements | .stopMeasurements => .unit
  | .dataReady => .ready (dataReadyFlag n0)
  | .readMeasurement => .reading (co2 n0) (reportedTemp fahrenheit n1) (rh n2)
  | .getTemperatureOffset => .celsius (temp n0)
  | .getSensorAltitude => .meters n0.toNat
  | .getAmbientPressure => .hPa n0.toNat

/-- The outcome of an operation from its last STATUS (46_host_sequences.md R190). -/
def libOutcome (op : LibOp) (fahrenheit : Bool) (s n0 n1 n2 cmd cause : Word) : Except LibError LibValue :=
  match statusErr s with
  | .none => .ok (libValue op fahrenheit n0 n1 n2)
  | .busError => .error (.busError cmd (loByte cause))
  | .crcMismatch => .error (.crcMismatch cmd)
  | .illegalCmd => .error (.illegalCmd cmd)

/-- The outcome of host `k` that has run an operation's program to its end. -/
def hostOutcome (op : LibOp) (k : Nat) (h : HostAgent) : Except LibError LibValue :=
  let v := varValue k h.vars
  libOutcome op h.fahrenheit (v varS) (v varN0) (v varN1) (v varN2) (v varOp) (v varCause)

end Sys2Proof.Machine
end

