-- ==== Sys2Proof/Safety.lean ====
section
/-! DEFINITION. What counts as a safe run, in the terms claims use: the invariant of the machine (what 10_state.md and
41_command_framer.md promise of every state a run reaches), the shape of a command's run, and its result as the source's
blocking call gives it. -/

namespace Sys2Proof.Machine

/-- The invariant: what the spec says holds in every state after reset. -/
structure StateInv (s : State) : Prop where
  /-- DCNT "is 0 whenever PHASE ≠ DELAY" (10_state.md R39) -/
  dcnt_zero : s.phase ≠ .delay → s.dcnt = 0
  /-- "DCNT is ≥ 1 throughout PHASE DELAY" (41_command_framer.md R149) -/
  dcnt_pos : s.phase = .delay → 1 ≤ s.dcnt
  /-- no more is left of a delay than the command's (41_command_framer.md R148) -/
  dcnt_le : s.phase = .delay → s.dcnt ≤ delayCycles (descriptor (inFlight s)) s
  /-- "DONE = 1 and BUSY = 1 never hold together" (10_state.md R23) -/
  done_idle : s.done = true → s.phase = .idle
  /-- "The value 2 never occurs" (10_state.md R25) -/
  nwords_legal : s.nwords = 0#2 ∨ s.nwords = 1#2 ∨ s.nwords = 3#2
  /-- "RESP[k] for k ≥ n holds 0" (10_state.md R26) -/
  resp0_zero : s.nwords = 0#2 → s.resp0 = 0#16
  resp12_zero : s.nwords ≠ 3#2 → s.resp1 = 0#16 ∧ s.resp2 = 0#16
  /-- no word is visible after a failure (10_state.md R25, 60_exceptions.md R226) -/
  err_no_words : s.err ≠ .none → s.nwords = 0#2
  /-- CAUSE is the cause of a bus error, "0 otherwise" (10_state.md R27) -/
  cause_zero : s.err ≠ .busError → s.cause = 0#8
  /-- CMD_OP and CMD_IDX name the command in flight (10_state.md R28, R29) -/
  in_flight : s.phase ≠ .idle → s.cmdOp = encode (inFlight s)
  /-- nothing is recorded before the response cycle (41_command_framer.md R152) -/
  quiet : s.phase = .req ∨ s.phase = .wait → s.err = .none ∧ s.nwords = 0#2
  /-- ILLEGAL_CMD is decided at acceptance, of an opcode outside the catalog (60_exceptions.md R223, R225) -/
  illegal_idle : s.err = .illegalCmd → s.phase = .idle ∧ s.done = true ∧ decodeWord s.cmdOp = none
  /-- CRC_MISMATCH is raised by commands with RLEN > 0 only (60_exceptions.md R220) -/
  crc_reads : s.err = .crcMismatch → ∃ i, decodeWord s.cmdOp = some i ∧ 0 < (descriptor i).words
  /-- verified words are those of a reading command (10_state.md R25) -/
  words_match : s.nwords ≠ 0#2 → ∃ i, decodeWord s.cmdOp = some i ∧ s.nwords = BitVec.ofNat 2 (descriptor i).words
  /-- before the first command since reset everything is 0 (10_state.md R43, R50) -/
  fresh : s.phase = .idle → s.done = false → s.cmdOp = 0#16 ∧ s.err = .none ∧ s.nwords = 0#2
  /-- there are at most NUM_HOSTS hosts (00_scope.md R10, R18) -/
  hosts_le : s.hosts.length ≤ s.config.numHosts

/-- The recorded result of a command: ERR, NWORDS, RESP[0..2], CAUSE. -/
structure Result where
  err    : ErrCode
  nwords : BitVec 2
  resp0  : Word
  resp1  : Word
  resp2  : Word
  cause  : Byte
  deriving DecidableEq, Repr

/-- The recorded result a state holds. -/
def resultOf (s : State) : Result :=
  { err := s.err, nwords := s.nwords, resp0 := s.resp0, resp1 := s.resp1, resp2 := s.resp2, cause := s.cause }

/-- Nothing recorded: the result while a command is before its response cycle (41_command_framer.md R152). -/
def noResult : Result := { err := .none, nwords := 0, resp0 := 0, resp1 := 0, resp2 := 0, cause := 0 }

/-- RESP[k] (10_state.md R26). -/
def respAt (s : State) : Nat → Word
  | 0 => s.resp0
  | 1 => s.resp1
  | _ => s.resp2

/-- A failed transaction's result: BUS_ERROR with the transport's cause (60_exceptions.md R221). -/
def busErrorResult (d : Draw) : Result := { noResult with err := .busError, cause := d.tRspCause }

/-- A discarded response's result (60_exceptions.md R222). -/
def crcMismatchResult : Result := { noResult with err := .crcMismatch }

/-- The result of a write-only command on the transport's response `d`, written without the block's state
(42_sensor_commands.md R170, R171, R177). -/
def writeOnlyResult (d : Draw) : Result := if d.tRspOk then noResult else busErrorResult d

/-- The result of a one-word command: response bytes r0, r1 with the CRC byte r2 (42_sensor_commands.md R173 to R176). -/
def oneWordResult (d : Draw) : Result :=
  let r := rspByte d.tRspData
  if d.tRspOk then
    if crc8 (r 0) (r 1) = r 2 then { noResult with nwords := 1, resp0 := r 0 ++ r 1 } else crcMismatchResult
  else busErrorResult d

/-- The result of the three-word command: response bytes r0 to r8 (42_sensor_commands.md R172). -/
def threeWordResult (d : Draw) : Result :=
  let r := rspByte d.tRspData
  if d.tRspOk then
    if crc8 (r 0) (r 1) = r 2 ∧ crc8 (r 3) (r 4) = r 5 ∧ crc8 (r 6) (r 7) = r 8 then
      { noResult with nwords := 3, resp0 := r 0 ++ r 1, resp1 := r 3 ++ r 4, resp2 := r 6 ++ r 7 }
    else crcMismatchResult
  else busErrorResult d

/-- The result of the source's blocking call for command `i` on one response of the transport (42_sensor_commands.md R170 to
R177). -/
def callResult : Instr → Draw → Result
  | .startPeriodic | .stopPeriodic | .reinit => writeOnlyResult
  | .getDataReady | .getTempOffset | .getSensorAltitude | .getAmbientPressure => oneWordResult
  | .readMeasurement => threeWordResult

/-- Command `i` is written to the idle block in this cycle and served by the transport: its request is taken in the `q`-th cycle
of REQ, its response comes in the `w`-th cycle of WAIT, and no reset comes up to the command's completion
(70_reset_and_hazards.md R265). Nothing else is asked of what the outside presents. -/
structure Served (s : State) (i : Instr) (q w : Nat) : Prop where
  idle : s.phase = .idle
  written : writeData .cmd s = some (encode i)
  q_pos : 1 ≤ q
  w_pos : 1 ≤ w
  not_ready : ∀ k, 1 ≤ k → k < q → (drawAt s k).tReqReady = false
  ready : (drawAt s q).tReqReady = true
  no_response : ∀ k, q < k → k < q + w → (drawAt s k).tRspValid = false
  response : (drawAt s (q + w)).tRspValid = true
  no_reset : ∀ k, k ≤ q + w + delayCycles (descriptor i) s → (drawAt s k).rst = false

/-- The block alone: its stored elements (10_state.md R57), without the agents around it. -/
structure Block where
  phase    : Phase
  cmdOp    : Word
  cmdIdx   : BitVec 3
  done     : Bool
  err      : ErrCode
  nwords   : BitVec 2
  resp0    : Word
  resp1    : Word
  resp2    : Word
  cause    : Byte
  dcnt     : Nat
  crcInReg : Word
  deriving DecidableEq, Repr

/-- The block of a state. -/
def blockOf (s : State) : Block :=
  { phase := s.phase, cmdOp := s.cmdOp, cmdIdx := s.cmdIdx, done := s.done, err := s.err, nwords := s.nwords,
    resp0 := s.resp0, resp1 := s.resp1, resp2 := s.resp2, cause := s.cause, dcnt := s.dcnt, crcInReg := s.crcInReg }

/-- The sequencer of a state: the block without the CRC port's operand (40_crc8.md R126). -/
def sequencerOf (s : State) : Block := { blockOf s with crcInReg := 0#16 }

/-- `s` with this cycle's grant replaced by `g` and everything else of the cycle as it is. -/
def withGrant (g : Grant) (s : State) : State :=
  { s with env := { draw s with grant := g } :: s.env.tail }

/-- `s` with this cycle's transport signals replaced by those of `d`. -/
def withTransport (d : Draw) (s : State) : State :=
  { s with
    env := { draw s with
      tReqReady := d.tReqReady, tRspValid := d.tRspValid, tRspOk := d.tRspOk, tRspData := d.tRspData,
      tRspCause := d.tRspCause } :: s.env.tail }

/-- `n` clock cycles: `n` steps, stopping at the first that answers no next state. -/
def cycles : Nat → State → Host.Outcome State Fault Refusal
  | 0, s => .next s
  | n + 1, s =>
    match step s with
    | .next t => cycles n t
    | .fault r => .fault r
    | .refused r => .refused r

/-- The state in which command `i` with opcode `op` and catalog index `idx` has just been accepted from `s`
(41_command_framer.md R142). -/
def acceptedFrom (s : State) (op : Word) (idx : BitVec 3) : State :=
  { s with
    cmdOp := op, cmdIdx := idx, phase := .req, done := false, err := .none, nwords := 0#2,
    resp0 := 0x0000#16, resp1 := 0x0000#16, resp2 := 0x0000#16, cause := 0x00#8 }

/-- The state after the response cycle of a command with delay `ms` and result `r`, from the WAIT state `s`
(41_command_framer.md R146 to R148): the delay is loaded, or the command is complete. -/
def respondedFrom (s : State) (ms : Nat) (r : Result) : State :=
  { s with
    err := r.err, nwords := r.nwords, resp0 := r.resp0, resp1 := r.resp1, resp2 := r.resp2, cause := r.cause
    dcnt := ms * s.config.cyclesPerMs
    phase := if ms = 0 then .idle else .delay
    done := decide (ms = 0) }

/-- Command `i` runs as its rule in 42_sensor_commands.md says, with its opcode, its bus bytes, its response length, its delay and
its result on a response: it is accepted, it presents its request, its response is recorded and its delay loaded, and when
the transport serves it, it is complete after exactly its delay with that result. -/
def CommandRuns (i : Instr) (op : Word) (b0 b1 : Byte) (idx : BitVec 3) (rlen ms : Nat) (result : Draw → Result) : Prop :=
  encode i = op ∧
  (∀ s, s.phase = .idle → exec i s = .next (acceptedFrom s op idx)) ∧
  (∀ s, StateInv s → s.phase = .req → s.cmdIdx = idx →
    ∃ r, ((draw s).rst = false → tRequest s = some r) ∧ r = { wdata := op, rlen := BitVec.ofNat 4 rlen } ∧
      transactionOf r = { addr := 0x62#7, wbytes := [b0, b1], rlen := rlen } ∧
      exec i s = .next (if (draw s).tReqReady then { s with phase := .wait } else s)) ∧
  (∀ s, StateInv s → s.phase = .wait → (draw s).tRspValid = true →
    exec i s = .next (respondedFrom s ms (result (draw s)))) ∧
  (∀ s q w, Served s i q w →
    (∀ k, q + w < k → k ≤ q + w + ms * s.config.cyclesPerMs →
      ∃ u, cycles k s = .next u ∧ u.phase = .delay ∧ u.done = false) ∧
    ∃ t, cycles (q + w + ms * s.config.cyclesPerMs + 1) s = .next t ∧
      t.phase = .idle ∧ t.done = true ∧ t.cmdOp = op ∧ resultOf t = result (drawAt s (q + w)))

end Sys2Proof.Machine
end

