-- ==== Sys2Proof/Certificates/Slice0/Obligations.lean ====
section
/-! DEFINITION. The statements for the provers. Each docstring names the rule of spec/ it formalises. -/

open Sys2Proof Sys2Proof.Machine

/-! ### The CRC unit -/

/-- 40_crc8.md R130: the source's reference vector. -/
def Obligations.Crc8ReferenceVector : Prop := crc8 0xBE#8 0xEF#8 = 0x92#8

/-- 40_crc8.md R123: the parallel equations are the loop's function, and the word CRC is two such stages in series. -/
def Obligations.CrcParallelFormIsTheLoop : Prop :=
  (∀ c b, crc8Byte c b = crcParallel (c ^^^ b)) ∧
  ∀ hi lo, crc8 hi lo = crcParallel (crcParallel (0xFF#8 ^^^ hi) ^^^ lo)

/-- 40_crc8.md R124: the 256-entry table is the loop's function. -/
def Obligations.CrcTableFormIsTheLoop : Prop :=
  (∀ c b, crc8Byte c b = crcTable (c ^^^ b)) ∧ ∀ i, crcTable i = crc8Byte 0x00#8 i

/-- 40_crc8.md R125: a triplet verifies iff its CRC is the byte transmitted, and iff the CRC over all three bytes is zero. -/
def Obligations.CrcResidueIsZeroIffVerified : Prop :=
  ∀ hi lo c, (tripletOk hi lo c = true ↔ crc8 hi lo = c) ∧
    (crc8Byte (crc8 hi lo) c = 0x00#8 ↔ tripletOk hi lo c = true)

/-- 40_crc8.md R129: `crc8` is affine in its 16 input bits. -/
def Obligations.CrcIsAffine : Prop :=
  (∀ a a' : Word, crc8 (hiByte (a ^^^ a')) (loByte (a ^^^ a')) =
    crc8 (hiByte a) (loByte a) ^^^ crc8 (hiByte a') (loByte a') ^^^ crc8 (hiByte 0x0000#16) (loByte 0x0000#16)) ∧
  crc8 0x00#8 0x00#8 = 0x81#8

/-- Derived from 40_crc8.md R121, R122, R125: every single-bit error in a verified triplet is detected. -/
def Obligations.CrcDetectsEverySingleBitError : Prop :=
  ∀ hi lo c, tripletOk hi lo c = true → ∀ k, k < 8 →
    tripletOk (hi ^^^ BitVec.twoPow 8 k) lo c = false ∧ tripletOk hi (lo ^^^ BitVec.twoPow 8 k) c = false ∧
    tripletOk hi lo (c ^^^ BitVec.twoPow 8 k) = false

/-- 40_crc8.md R127: a CRC_IN write is performed in its cycle in any phase unless `rst`, never waits, is seen by CRC_IN and CRC_OUT
from the next cycle on and writes nothing else; without one CRC_IN_REG keeps its value. -/
def Obligations.CrcInWriteIsVisibleNextCycle : Prop :=
  (∀ s w, (draw s).rst = false → writeData .crcIn s = some w →
    hWait s = false ∧ ∃ t u, step s = .next t ∧ step (withGrant .none s) = .next u ∧
      readReg .crcIn t = w ∧ readReg .crcOut t = 0x00#8 ++ crc8 (w.extractLsb' 8 8) (w.extractLsb' 0 8) ∧
      sequencerOf t = sequencerOf u) ∧
  (∀ s, (draw s).rst = false → writeData .crcIn s = none → ∃ t, step s = .next t ∧ t.crcInReg = s.crcInReg) ∧
  ∀ s, (draw s).rst = true → ∃ t, step s = .next t ∧ t.crcInReg = 0x0000#16

/-- 40_crc8.md R126: the CRC port shares no state with the sequencer and is never held. In any state a CRC_IN write leaves the
sequencer as the cycle would without it; and with no host program that could read the port, runs from two states that differ
only in CRC_IN_REG keep the same sequencer for ever. -/
def Obligations.CrcPortNeverReachesTheSequencer : Prop :=
  (∀ s w, writeData .crcIn s = some w → hWait s = false ∧
    ∃ t u, step s = .next t ∧ step (withGrant .none s) = .next u ∧ sequencerOf t = sequencerOf u) ∧
  ∀ s c n, s.hosts = [] → ∃ t u, cycles n s = .next t ∧ cycles n { s with crcInReg := c } = .next u ∧
    sequencerOf t = sequencerOf u

/-! ### The catalog and its encoding -/

/-- 30_encoding.md R95: the eight rows, each word, index, bus bytes, response length, words and delay written out, and what the
words decode to. -/
def Obligations.CatalogWordsDecode : Prop :=
  [0x21B1#16, 0x3F86#16, 0xEC05#16, 0xE4B8#16, 0x2318#16, 0x2322#16, 0xE000#16, 0x3646#16].map decodeWord =
    [some .startPeriodic, some .stopPeriodic, some .readMeasurement, some .getDataReady, some .getTempOffset,
     some .getSensorAltitude, some .getAmbientPressure, some .reinit] ∧
  catalog.map catalogIndex = [0#3, 1#3, 2#3, 3#3, 4#3, 5#3, 6#3, 7#3] ∧
  catalog.map encodeBytes =
    [[0x21#8, 0xB1#8], [0x3F#8, 0x86#8], [0xEC#8, 0x05#8], [0xE4#8, 0xB8#8], [0x23#8, 0x18#8], [0x23#8, 0x22#8],
     [0xE0#8, 0x00#8], [0x36#8, 0x46#8]] ∧
  catalog.map (fun i => (descriptor i).rlen) = [0, 0, 9, 3, 3, 3, 3, 0] ∧
  catalog.map (fun i => (descriptor i).words) = [0, 0, 3, 1, 1, 1, 1, 0] ∧
  catalog.map (fun i => (descriptor i).delayMs) = [0, 500, 0, 1, 1, 1, 1, 30] ∧
  [0x0000#16, 0xFFFF#16, 0xB121#16].map decodeWord = [none, none, none]

/-- 30_encoding.md R100: the decoder answers the unique row whose opcode is the word, with no aliasing; CMD_IDX names it. -/
def Obligations.DecodeMatchesExactlyTheOpcode : Prop :=
  (∀ w i, decodeWord w = some i ↔ w = encode i) ∧
  (∀ w, decodeWord w = none ↔ ∀ idx : BitVec 3, encode (catalogAt idx) ≠ w) ∧
  (∀ i, catalogAt (catalogIndex i) = i) ∧ ∀ idx, catalogIndex (catalogAt idx) = idx

/-- 20_memory.md R60, 30_encoding.md R90, R104: decode and encode agree on byte streams, in both directions: what is read is
exactly what was encoded, and only an encoding is read. -/
def Obligations.BytesDecodeIffEncoded : Prop :=
  ∀ bs i rest, decodeBytes bs = .ok (i, rest) ↔ bs = encodeBytes i ++ rest

/-! ### The registers -/

/-- 10_state.md R32: STATUS is the flags in their places, bits 15:8 read 0, NWORDS is never 2 (in states of the invariant), it
reads 0x0000 after reset, and a write to it is ignored. -/
def Obligations.StatusFieldsAreTheFlags : Prop :=
  (∀ s, (readReg .status s).extractLsb' 0 1 = BitVec.ofBool (s.phase != .idle) ∧
    (readReg .status s).extractLsb' 1 1 = BitVec.ofBool s.done ∧
    (readReg .status s).extractLsb' 2 2 = errBits s.err ∧
    (readReg .status s).extractLsb' 4 2 = s.nwords ∧
    (readReg .status s).extractLsb' 6 2 = phaseCode s.phase ∧
    (readReg .status s).extractLsb' 8 8 = 0x00#8) ∧
  readReg .status State.reset = 0x0000#16 ∧
  (∀ s, StateInv s → (readReg .status s).extractLsb' 4 2 ≠ 2#2) ∧
  ∀ s a, portAccess s = some a → a.we = true → a.addr = 1#3 →
    ∃ t u, step s = .next t ∧ step (withGrant .none s) = .next u ∧ blockOf t = blockOf u

/-- 41_command_framer.md R154: a host read gives the register's value at the start of the cycle, never waits, and changes
no state. -/
def Obligations.HostReadGivesTheRegister : Prop :=
  ∀ s a, portAccess s = some a → a.we = false →
    (a.addr = 0#3 → hRdata s = some s.cmdOp) ∧ (a.addr = 1#3 → hRdata s = some (statusWord s)) ∧
    (a.addr = 2#3 → hRdata s = some s.resp0) ∧ (a.addr = 3#3 → hRdata s = some s.resp1) ∧
    (a.addr = 4#3 → hRdata s = some s.resp2) ∧ (a.addr = 5#3 → hRdata s = some (0x00#8 ++ s.cause)) ∧
    (a.addr = 6#3 → hRdata s = some s.crcInReg) ∧
    (a.addr = 7#3 → hRdata s = some
      (0x00#8 ++ crc8 (s.crcInReg.extractLsb' 8 8) (s.crcInReg.extractLsb' 0 8))) ∧
    hWait s = false ∧
    ∃ t u, step s = .next t ∧ step (withGrant .none s) = .next u ∧ blockOf t = blockOf u

/-- 41_command_framer.md R155: a write to a read-only index never waits and has no effect on any state of the block. -/
def Obligations.ReadOnlyWriteIsIgnored : Prop :=
  ∀ s a, portAccess s = some a → a.we = true → a.addr ≠ 0#3 → a.addr ≠ 6#3 →
    hWait s = false ∧ ∃ t u, step s = .next t ∧ step (withGrant .none s) = .next u ∧ blockOf t = blockOf u

/-- 41_command_framer.md R141: a CMD write waits exactly while a command is in flight (and not in a reset cycle,
70_reset_and_hazards.md R254), and nothing else waits; while it waits it changes no state and stays the host's next
statement; it is performed in the first cycle with PHASE = IDLE. -/
def Obligations.CmdWriteIsHeldWhileBusy : Prop :=
  (∀ s, hWait s = true ↔ (draw s).rst = false ∧ s.phase ≠ .idle ∧ ∃ w, writeData .cmd s = some w) ∧
  (∀ s, hWait s = true → ∃ t u, step s = .next t ∧ step (withGrant .none s) = .next u ∧ blockOf t = blockOf u) ∧
  (∀ s k h, hWait s = true → grantedHost s = some (k, h) → ∃ w t h', nextStmt k h = some (.wr .cmd w) ∧
    step s = .next t ∧ t.hosts[k]? = some h' ∧ nextStmt k h' = some (.wr .cmd w)) ∧
  ∀ s w, (draw s).rst = false → s.phase = .idle → writeData .cmd s = some w → ∃ t, step s = .next t ∧ t.cmdOp = w

/-! ### Reset -/

/-- 70_reset_and_hazards.md R250, R254: a reset cycle leaves every stored element at its reset value whatever the phase and
whatever a host or the transport presents, and the parameters as they are. -/
def Obligations.ResetCycleLeavesResetValues : Prop :=
  ∀ s, (draw s).rst = true → ∃ t, step s = .next t ∧ t.phase = .idle ∧ t.cmdOp = 0x0000#16 ∧ t.cmdIdx = 0#3 ∧
    t.done = false ∧ t.err = .none ∧ t.nwords = 0#2 ∧ t.resp0 = 0x0000#16 ∧ t.resp1 = 0x0000#16 ∧
    t.resp2 = 0x0000#16 ∧ t.cause = 0x00#8 ∧ t.dcnt = 0 ∧ t.crcInReg = 0x0000#16 ∧ t.config = s.config

/-- 70_reset_and_hazards.md R251: what a host sees after reset, and that a command is accepted in the first cycle after. -/
def Obligations.AfterResetTheBlockIsReady : Prop :=
  ∀ s, (draw s).rst = true → ∃ t, step s = .next t ∧ t.phase = .idle ∧ readReg .status t = 0x0000#16 ∧
    readReg .cmd t = 0x0000#16 ∧ readReg .crcOut t = 0x0081#16 ∧
    ∀ i, (draw t).rst = false → writeData .cmd t = some (encode i) → ∃ u, step t = .next u ∧
      u.phase = .req ∧ u.cmdOp = encode i

/-- 70_reset_and_hazards.md R254: in a reset cycle no write waits, and a write of a loaded host is its next statement still.
That a host presents it again is the model's reading (log entry 6). -/
def Obligations.ResetCycleWriteIsPresentedAgain : Prop :=
  ∀ s, (draw s).rst = true → hWait s = false ∧
    ∀ k h r w, grantedHost s = some (k, h) → nextStmt k h = some (.wr r w) →
      ∃ t h', step s = .next t ∧ t.hosts[k]? = some h' ∧ nextStmt k h' = some (.wr r w) ∧ h'.vars = h.vars

/-! ### The sequencer -/

/-- 41_command_framer.md R142: acceptance of every command, as the whole next state: of exec, and of the block in a step in which
a host writes the command's opcode; BUSY is 1 from the next cycle and nothing goes to the transport in this one. -/
def Obligations.AcceptStartsTheCommand : Prop :=
  (∀ i s, s.phase = .idle → exec i s = .next
    { s with
      cmdOp := encode i, cmdIdx := catalogIndex i, phase := .req, done := false, err := .none, nwords := 0#2,
      resp0 := 0x0000#16, resp1 := 0x0000#16, resp2 := 0x0000#16, cause := 0x00#8 }) ∧
  ∀ i s, (draw s).rst = false → s.phase = .idle → writeData .cmd s = some (encode i) →
    tRequest s = none ∧ ∃ t, step s = .next t ∧ busy t = true ∧ blockOf t =
      { blockOf s with
        cmdOp := encode i, cmdIdx := catalogIndex i, phase := .req, done := false, err := .none, nwords := 0#2,
        resp0 := 0x0000#16, resp1 := 0x0000#16, resp2 := 0x0000#16, cause := 0x00#8 }

/-- Derived from 41_command_framer.md R140: a step runs the decoded instruction. Idle with a legal CMD write it is exec of the decoded
command; with a command in flight it is exec of that command, with a CRC_IN write of the cycle beside it. Around exec the step
moves the agents outside the block on (`advance`). The third clause is about `withFetchWord`, which is a device of the model and
its choice (log entry 4): the step after it runs the word's command. -/
def Obligations.StepRunsTheDecodedCommand : Prop :=
  (∀ s w i, (draw s).rst = false → s.phase = .idle → writeData .cmd s = some w → decodeWord w = some i →
    ∃ t, exec i s = .next t ∧ step s = .next (advance s t)) ∧
  (∀ s, (draw s).rst = false → s.phase ≠ .idle →
    ∃ t, exec (catalogAt s.cmdIdx) s = .next t ∧ step s = .next (advance s (crcPort s t))) ∧
  (∀ (s : State) w i, decodeWord w = some i →
    ∃ t, exec i (s.withFetchWord 16 w.toNat) = .next t ∧
      step (s.withFetchWord 16 w.toNat) = .next (advance (s.withFetchWord 16 w.toNat) t))

/-- 41_command_framer.md R143, 42_sensor_commands.md R178: an illegal opcode is rejected at once, as the whole next state of the
block; nothing is requested and no delay is counted. -/
def Obligations.IllegalOpcodeIsRejected : Prop :=
  ∀ s w, (draw s).rst = false → s.phase = .idle → writeData .cmd s = some w → decodeWord w = none →
    tRequest s = none ∧ ∃ t, step s = .next t ∧ tRequest t = none ∧ readReg .status t = 0x000E#16 ∧
      readReg .cmd t = w ∧ blockOf t =
      { blockOf s with
        cmdOp := w, done := true, err := .illegalCmd, nwords := 0#2, resp0 := 0x0000#16, resp1 := 0x0000#16,
        resp2 := 0x0000#16, cause := 0x00#8 }

/-- Derived from 41_command_framer.md R144, 20_memory.md R66 and 10_state.md R50: in every cycle of PHASE REQ the request is
presented until the transport takes it, and nothing else changes; in no other phase is one presented, so none in the cycle after
a reset cycle. That R66 and not R50's 0 holds in a reset cycle that starts in PHASE REQ is the model's reading (log entry 5). -/
def Obligations.RequestWaitsForTheTransport : Prop :=
  (∀ i s, s.phase = .req → (draw s).tReqReady = true → exec i s = .next { s with phase := .wait }) ∧
  (∀ i s, s.phase = .req → (draw s).tReqReady = false → exec i s = .next s) ∧
  (∀ s, s.phase = .req →
    tRequest s = some { wdata := s.cmdOp, rlen := BitVec.ofNat 4 (descriptor (catalogAt s.cmdIdx)).rlen } ∧
    transactionOf { wdata := s.cmdOp, rlen := BitVec.ofNat 4 (descriptor (catalogAt s.cmdIdx)).rlen } =
      { addr := 0x62#7, wbytes := [s.cmdOp.extractLsb' 8 8, s.cmdOp.extractLsb' 0 8],
        rlen := (descriptor (catalogAt s.cmdIdx)).rlen }) ∧
  (∀ s, s.phase ≠ .req → tRequest s = none) ∧
  ∀ s, (draw s).rst = true → ∃ t, step s = .next t ∧ tRequest t = none

/-- 41_command_framer.md R146, R148: a bus error is recorded with its cause, no CRC is looked at, and the command's delay is
counted all the same. -/
def Obligations.BusErrorIsRecorded : Prop :=
  ∀ i s, s.phase = .wait → (draw s).tRspValid = true → (draw s).tRspOk = false →
    ((descriptor i).delayMs * s.config.cyclesPerMs = 0 → exec i s = .next
      { s with err := .busError, cause := (draw s).tRspCause, phase := .idle, done := true }) ∧
    (0 < (descriptor i).delayMs * s.config.cyclesPerMs → exec i s = .next
      { s with
        err := .busError, cause := (draw s).tRspCause, phase := .delay,
        dcnt := (descriptor i).delayMs * s.config.cyclesPerMs })

/-- 41_command_framer.md R147: on a good bus response a write-only command succeeds, a reading command records its words exactly
when every triplet verifies, and one failing triplet discards every word (StateInv: RESP and NWORDS are 0 before). -/
def Obligations.ResponseWordsAreVerifiedTogether : Prop :=
  ∀ i s, StateInv s → s.phase = .wait → (draw s).tRspValid = true → (draw s).tRspOk = true →
    ∃ t, exec i s = .next t ∧ t.cause = 0x00#8 ∧
      ((descriptor i).rlen = 0 → t.err = .none ∧ t.nwords = 0#2 ∧ ∀ k, respAt t k = 0x0000#16) ∧
      ((descriptor i).rlen ≠ 0 →
        (∀ k, k < (descriptor i).rlen / 3 → crc8 (rspByte (draw s).tRspData (3 * k))
          (rspByte (draw s).tRspData (3 * k + 1)) = rspByte (draw s).tRspData (3 * k + 2)) →
        t.err = .none ∧ t.nwords = BitVec.ofNat 2 ((descriptor i).rlen / 3) ∧
        (∀ k, k < (descriptor i).rlen / 3 →
          respAt t k = rspByte (draw s).tRspData (3 * k) ++ rspByte (draw s).tRspData (3 * k + 1)) ∧
        ∀ k, (descriptor i).rlen / 3 ≤ k → k < 3 → respAt t k = 0x0000#16) ∧
      ((∃ k, k < (descriptor i).rlen / 3 ∧ crc8 (rspByte (draw s).tRspData (3 * k))
          (rspByte (draw s).tRspData (3 * k + 1)) ≠ rspByte (draw s).tRspData (3 * k + 2)) →
        t.err = .crcMismatch ∧ t.nwords = 0#2 ∧ ∀ k, respAt t k = 0x0000#16)

/-- 41_command_framer.md R148: for every command and every outcome the response cycle loads the delay or, with no delay,
completes the command; with no response nothing changes. -/
def Obligations.TransactionEndLoadsTheDelay : Prop :=
  (∀ i s, s.phase = .wait → (draw s).tRspValid = true → ∃ t, exec i s = .next t ∧
    (0 < (descriptor i).delayMs * s.config.cyclesPerMs →
      t.dcnt = (descriptor i).delayMs * s.config.cyclesPerMs ∧ t.phase = .delay ∧ t.done = s.done) ∧
    ((descriptor i).delayMs * s.config.cyclesPerMs = 0 → t.dcnt = s.dcnt ∧ t.phase = .idle ∧ t.done = true)) ∧
  ∀ i s, s.phase = .wait → (draw s).tRspValid = false → exec i s = .next s

/-- 41_command_framer.md R149: the count-down, for every command; and PHASE DELAY with DCNT = n lasts exactly n cycles without
reset, whatever the hosts and the transport do, and the command completes at its end with its result untouched. -/
def Obligations.DelayLastsExactlyItsCount : Prop :=
  (∀ i s, s.phase = .delay →
    (s.dcnt = 1 → exec i s = .next { s with dcnt := 0, phase := .idle, done := true }) ∧
    (1 < s.dcnt → exec i s = .next { s with dcnt := s.dcnt - 1 })) ∧
  ∀ s n, s.phase = .delay → s.dcnt = n → 1 ≤ n → (∀ k, k < n → (drawAt s k).rst = false) →
    (∀ k, k < n → ∃ t, cycles k s = .next t ∧ t.phase = .delay ∧ t.dcnt = n - k ∧ t.done = s.done ∧
      resultOf t = resultOf s) ∧
    ∃ t, cycles n s = .next t ∧ t.phase = .idle ∧ t.dcnt = 0 ∧ t.done = true ∧ resultOf t = resultOf s

/-- 41_command_framer.md R150: a command completes where PHASE returns to IDLE, or at its rejection; that edge sets DONE; and
until the next CMD write no cycle without reset changes the result, CMD_OP or DONE. -/
def Obligations.CompletedResultIsFinal : Prop :=
  ∀ s, (draw s).rst = false → ∃ t, step s = .next t ∧
    (s.phase ≠ .idle → t.phase = .idle → t.done = true) ∧
    (s.phase = .idle → ∀ w, writeData .cmd s = some w → decodeWord w = none → t.done = true) ∧
    (s.done = false → t.done = true → t.phase = .idle ∧
      (s.phase ≠ .idle ∨ ∃ w, writeData .cmd s = some w ∧ decodeWord w = none)) ∧
    (s.phase = .idle → writeData .cmd s = none →
      t.phase = .idle ∧ resultOf t = resultOf s ∧ t.cmdOp = s.cmdOp ∧ t.done = s.done)

/-- 41_command_framer.md R153: the fixed phase sequence, for every cycle without reset. -/
def Obligations.PhaseSequenceIsFixed : Prop :=
  ∀ s, (draw s).rst = false → ∃ t, step s = .next t ∧
    match s.phase with
    | .idle => t.phase = .idle ∨ t.phase = .req
    | .req => t.phase = .req ∨ t.phase = .wait
    | .wait => t.phase = .wait ∨ t.phase = .delay ∨ t.phase = .idle
    | .delay => t.phase = .delay ∨ t.phase = .idle

/-- 10_state.md R28: CMD_OP changes only by a CMD write performed in PHASE IDLE, to the value written. -/
def Obligations.CmdOpIsTheLastPerformedWrite : Prop :=
  ∀ s, (draw s).rst = false → ∃ t, step s = .next t ∧
    (∀ w, s.phase = .idle → writeData .cmd s = some w → t.cmdOp = w) ∧
    (s.phase ≠ .idle ∨ writeData .cmd s = none → t.cmdOp = s.cmdOp ∧ t.cmdIdx = s.cmdIdx)

/-- 41_command_framer.md R156, 20_memory.md R68: `t_req_ready` outside REQ and a response pulse outside WAIT change
nothing. -/
def Obligations.StrayTransportSignalsAreIgnored : Prop :=
  ∀ s d, (s.phase = .req → d.tReqReady = (draw s).tReqReady) →
    (s.phase = .wait → d.tRspValid = (draw s).tRspValid ∧ d.tRspOk = (draw s).tRspOk ∧
      d.tRspData = (draw s).tRspData ∧ d.tRspCause = (draw s).tRspCause) →
    step (withTransport d s) = step s

/-- 41_command_framer.md R145: response bytes from RLEN on are ignored. -/
def Obligations.BytesBeyondRlenAreIgnored : Prop :=
  ∀ s d, s.phase = .wait → d.tRspValid = (draw s).tRspValid → d.tRspOk = (draw s).tRspOk →
    d.tRspCause = (draw s).tRspCause →
    (∀ k, k < (descriptor (inFlight s)).rlen → rspByte d.tRspData k = rspByte (draw s).tRspData k) →
    step (withTransport d s) = step s

/-! ### The eight commands -/

/-- 42_sensor_commands.md R170. -/
def Obligations.StartPeriodicRuns : Prop :=
  CommandRuns .startPeriodic 0x21B1#16 0x21#8 0xB1#8 0#3 0 0 writeOnlyResult

/-- 42_sensor_commands.md R171. -/
def Obligations.StopPeriodicRuns : Prop :=
  CommandRuns .stopPeriodic 0x3F86#16 0x3F#8 0x86#8 1#3 0 500 writeOnlyResult

/-- 42_sensor_commands.md R172. -/
def Obligations.ReadMeasurementRuns : Prop :=
  CommandRuns .readMeasurement 0xEC05#16 0xEC#8 0x05#8 2#3 9 0 threeWordResult

/-- 42_sensor_commands.md R173. -/
def Obligations.GetDataReadyRuns : Prop :=
  CommandRuns .getDataReady 0xE4B8#16 0xE4#8 0xB8#8 3#3 3 1 oneWordResult

/-- 42_sensor_commands.md R174. -/
def Obligations.GetTempOffsetRuns : Prop :=
  CommandRuns .getTempOffset 0x2318#16 0x23#8 0x18#8 4#3 3 1 oneWordResult

/-- 42_sensor_commands.md R175. -/
def Obligations.GetSensorAltitudeRuns : Prop :=
  CommandRuns .getSensorAltitude 0x2322#16 0x23#8 0x22#8 5#3 3 1 oneWordResult

/-- 42_sensor_commands.md R176. -/
def Obligations.GetAmbientPressureRuns : Prop :=
  CommandRuns .getAmbientPressure 0xE000#16 0xE0#8 0x00#8 6#3 3 1 oneWordResult

/-- 42_sensor_commands.md R177. -/
def Obligations.ReinitRuns : Prop :=
  CommandRuns .reinit 0x3646#16 0x36#8 0x46#8 7#3 0 30 writeOnlyResult

/-! ### Whole runs -/

/-- 70_reset_and_hazards.md R265: the cycle-by-cycle run of a served command: q cycles of REQ, w of WAIT, exactly L of
DELAY, and IDLE with DONE = 1 from cycle q + w + L + 1 on; the request is presented in the REQ cycles and in no other. An
illegal opcode reads DONE = 1 from the next cycle on. -/
def Obligations.ServedCommandRunsOnTime : Prop :=
  (∀ s w, (draw s).rst = false → s.phase = .idle → writeData .cmd s = some w → decodeWord w = none →
    ∃ t, step s = .next t ∧ t.phase = .idle ∧ t.done = true) ∧
  ∀ s i q w, Served s i q w → ∀ k, 1 ≤ k → k ≤ q + w + delayCycles (descriptor i) s + 1 →
    ∃ t, cycles k s = .next t ∧ t.cmdOp = encode i ∧ t.cmdIdx = catalogIndex i ∧
      (k ≤ q → t.phase = .req ∧
        tRequest t = some { wdata := encode i, rlen := BitVec.ofNat 4 (descriptor i).rlen }) ∧
      (q < k → k ≤ q + w → t.phase = .wait) ∧
      (q + w < k → k ≤ q + w + delayCycles (descriptor i) s →
        t.phase = .delay ∧ t.dcnt = q + w + delayCycles (descriptor i) s + 1 - k) ∧
      (q < k → tRequest t = none) ∧
      (k ≤ q + w + delayCycles (descriptor i) s → t.done = false) ∧
      (k = q + w + delayCycles (descriptor i) s + 1 → t.phase = .idle ∧ t.done = true)

/-- 41_command_framer.md R152, refining the source's blocking call: before the response nothing is recorded, and from the
response's edge on, during the delay and at completion, exactly the call's result. -/
def Obligations.ServedCommandGivesTheCallResult : Prop :=
  ∀ s i q w, Served s i q w → ∀ k, 1 ≤ k → k ≤ q + w + delayCycles (descriptor i) s + 1 →
    ∃ t, cycles k s = .next t ∧
      (k ≤ q + w → resultOf t = noResult) ∧ (q + w < k → resultOf t = callResult i (drawAt s (q + w))) ∧
      (k ≤ q + w + delayCycles (descriptor i) s → t.done = false)

/-- 41_command_framer.md R151: the gap guarantee. After a response cycle no request is presented in the next L + 1 cycles,
whatever the hosts do, if no reset comes in between; and a command written in the first idle cycle is presented in the cycle
after, so the bound is exact. -/
def Obligations.SettlingGapIsGuaranteed : Prop :=
  ∀ s, s.phase = .wait → (draw s).tRspValid = true →
    (∀ k, k ≤ delayCycles (descriptor (inFlight s)) s → (drawAt s k).rst = false) →
    (∀ k, 1 ≤ k → k ≤ delayCycles (descriptor (inFlight s)) s + 1 →
      ∃ t, cycles k s = .next t ∧ tRequest t = none) ∧
    ∃ t, cycles (delayCycles (descriptor (inFlight s)) s + 1) s = .next t ∧ t.phase = .idle ∧
      ∀ i, (draw t).rst = false → writeData .cmd t = some (encode i) → ∃ u, step t = .next u ∧
        ((draw u).rst = false →
          tRequest u = some { wdata := encode i, rlen := BitVec.ofNat 4 (descriptor i).rlen })

/-- 60_exceptions.md R224, 20_memory.md R69: a transport that never answers leaves the block in PHASE WAIT, for any number
of cycles; there is no timeout. -/
def Obligations.UnansweredTransactionHangs : Prop :=
  ∀ s n, s.phase = .wait → (∀ k, k < n → (drawAt s k).rst = false ∧ (drawAt s k).tRspValid = false) →
    ∃ t, cycles n s = .next t ∧ sequencerOf t = sequencerOf s

/-- Derived from 60_exceptions.md R224 and 41_command_framer.md R140: every cycle of every state answers a next state. -/
def Obligations.EveryCycleAnswersANextState : Prop := ∀ s, ∃ t, step s = .next t

/-- The invariant at reset, with the parameters of the chip. -/
def Obligations.InvariantHoldsAtReset : Prop := StateInv State.reset

/-- Every cycle keeps the invariant, whatever the hosts and the transport present. -/
def Obligations.EveryCycleKeepsTheInvariant : Prop := ∀ s t, StateInv s → step s = .next t → StateInv t

/-- Derived from 00_scope.md R18 and R10: a cycle leaves the parameters, takes one entry of the schedule, counts one cycle, and
neither loses a host nor changes a host's program, unit or bus handle. The schedule and the count are the model's own fields (log entry
3), and that a reset cycle too loses no host and no program is the model's choice (log entry 6). -/
def Obligations.CycleFramesTheSurroundings : Prop :=
  ∀ s, ∃ t, step s = .next t ∧ t.config = s.config ∧ t.env = s.env.tail ∧ t.cycle = s.cycle + 1 ∧
    t.hosts.map HostAgent.prog = s.hosts.map HostAgent.prog ∧
    t.hosts.map HostAgent.fahrenheit = s.hosts.map HostAgent.fahrenheit ∧
    t.hosts.map HostAgent.bus = s.hosts.map HostAgent.bus

/-! ### The hosts -/

/-- Derived from 30_encoding.md R112 and 41_command_framer.md R154: a granted RD stores the register's value at the start of the
cycle in its variable and finishes; every other variable and every other host stay. That it does so in a reset cycle too is
the model's choice (log entry 6), and so is that a host which stands at branches runs them and reads in this one cycle (log
entry 7). What a read leaves of the block is `HostReadGivesTheRegister`. -/
def Obligations.HostReadStoresTheRegister : Prop :=
  ∀ s k h r v, grantedHost s = some (k, h) → nextStmt k h = some (.rd r v) →
    hRdata s = some (readReg r s) ∧ hWait s = false ∧
    ∃ t h', step s = .next t ∧ t.hosts[k]? = some h' ∧ lookupVar h'.vars v = some (readReg r s) ∧
      (∀ u, u ≠ v → lookupVar h'.vars u = lookupVar h.vars u) ∧ h'.pc = (atAccess k h).pc + 1 ∧
      ∀ j, j ≠ k → t.hosts[j]? = s.hosts[j]?

/-- Derived from 30_encoding.md R111 and 41_command_framer.md R141: a granted WR in a cycle without reset presents its access and
finishes, but a CMD write while a command is in flight is the host's next statement still. That a host which stands at
branches runs them and writes in this one cycle is the model's choice (log entry 7). -/
def Obligations.HostWriteFinishesWhenPerformed : Prop :=
  ∀ s k h r w, grantedHost s = some (k, h) → nextStmt k h = some (.wr r w) → (draw s).rst = false →
    portAccess s = some { we := true, addr := regIndex r, wdata := w } ∧
    ∃ t h', step s = .next t ∧ t.hosts[k]? = some h' ∧ h'.vars = h.vars ∧
      (∀ j, j ≠ k → t.hosts[j]? = s.hosts[j]?) ∧
      (r ≠ .cmd ∨ s.phase = .idle → h'.pc = (atAccess k h).pc + 1) ∧
      (r = .cmd → s.phase ≠ .idle → nextStmt k h' = some (.wr r w))

/-- Derived from 60_exceptions.md R236: a host that is not granted the port does not move. That it stays as it is in a reset
cycle too (log entry 6), and that it runs no branch before it is granted the port (log entry 7), are the model's choices. -/
def Obligations.UngrantedHostDoesNotMove : Prop :=
  ∀ s k, (draw s).grant ≠ .loaded k → ∃ t, step s = .next t ∧ t.hosts[k]? = s.hosts[k]?

/-- 30_encoding.md R110: a branch at a host's next statement is taken iff `(v & mask) ≠ val`, and
`BNE v, 0x0000, 0x0001` always. -/
def Obligations.BranchFollowsItsCondition : Prop :=
  (∀ k n h v m x l y, h.prog[h.pc]? = some (.bne v m x l) → lookupVar h.vars v = some y →
    runBranches k (n + 1) h = runBranches k n { h with pc := if y &&& m ≠ x then l else h.pc + 1 }) ∧
  ∀ y, branchTaken y 0x0000#16 0x0001#16 = true

/-- Derived from 95_test_vectors.md's conventions and 30_encoding.md R110: no more branches than the program has statements are
needed; a host still at a branch then is at one for ever (log entry 7). -/
def Obligations.BranchBoundIsEnough : Prop :=
  ∀ k h n, h.prog.length ≤ n →
    (∀ v m x l, (atAccess k h).prog[(atAccess k h).pc]? ≠ some (.bne v m x l)) ∧ runBranches k n h = atAccess k h ∨
    ∃ v m x l, (runBranches k n h).prog[(runBranches k n h).pc]? = some (.bne v m x l)

/-- 30_encoding.md R113, R114: the expansions of WAITDONE, CMD.m and EXEC m. -/
def Obligations.PseudoStatementsExpand : Prop :=
  assemble [.waitdone] = some [.rd .status varS, .bne varS 0x0003#16 0x0002#16 0] ∧
  (∀ i, assemble [.cmd i] = some [.wr .cmd (encode i)]) ∧
  ∀ i, assemble [.exec i] =
    some [.wr .cmd (encode i), .rd .status varS, .bne varS 0x0003#16 0x0002#16 1]

/-- Derived from 30_encoding.md R110: a program is assembled iff every label it branches to is defined. That a list which
defines a label twice is assembled too, with the first taken, is the model's choice (log entry 14). -/
def Obligations.AssemblesIffLabelsDefined : Prop :=
  ∀ ls, (∃ p, assemble ls = some p) ↔ labelsDefined ls = true

/-- 46_host_sequences.md R200, R204: the temperature formula, and that the raw word is recovered with no rounding at all. -/
def Obligations.TemperatureRoundTrips : Prop :=
  (∀ n : Word, temp n = -45 + 175 * (n.toNat : Rat) / 65536) ∧ temp 0xFFFF#16 = 8519505 / 65536 ∧ temp 0x0000#16 = -45 ∧
  ∀ n : Word, (temp n + 45) * 65536 / 175 = (n.toNat : Rat) ∧ round ((temp n + 45) * 65536 / 175) = (n.toNat : Int)

/-- 46_host_sequences.md R201, R202, R203: humidity, CO₂ and Fahrenheit; the unit preference reaches the temperature of a
measurement and nothing else, the temperature offset included. -/
def Obligations.ConversionsFollowTheFormulas : Prop :=
  (∀ n : Word, rh n = 100 * (n.toNat : Rat) / 65536) ∧ rh 0x0000#16 = 0 ∧ rh 0xFFFF#16 = 1638375 / 16384 ∧
  (∀ n : Word, co2 n = n.toNat) ∧ (∀ c : Rat, fahrenheitOf c = 9 / 5 * c + 32) ∧
  (∀ n0 n1 n2, libValue .readMeasurement true n0 n1 n2 = .reading n0.toNat (9 / 5 * temp n1 + 32) (rh n2)) ∧
  (∀ n0 n1 n2, libValue .readMeasurement false n0 n1 n2 = .reading n0.toNat (temp n1) (rh n2)) ∧
  ∀ op f f' n0 n1 n2, op ≠ .readMeasurement → libValue op f n0 n1 n2 = libValue op f' n0 n1 n2

/-- 46_host_sequences.md R205: the data-ready flag is any of the 11 least-significant bits; bits 15:11 are ignored. -/
def Obligations.DataReadyFlagIsTheLowElevenBits : Prop :=
  ∀ n : Word, (dataReadyFlag n = true ↔ ∃ k, k < 11 ∧ n.getLsbD k = true) ∧
    ∀ m : Word, (∀ k, k < 11 → m.getLsbD k = n.getLsbD k) → dataReadyFlag m = dataReadyFlag n

/-- 46_host_sequences.md R190: an operation fails exactly with the error in the STATUS it read, naming the command by its
opcode. -/
def Obligations.LibraryErrorIsTheStatusError : Prop :=
  ∀ op f n0 n1 n2 cmd cause s,
    (s.err = .none → libOutcome op f (readReg .status s) n0 n1 n2 cmd cause = .ok (libValue op f n0 n1 n2)) ∧
    (s.err = .busError → libOutcome op f (readReg .status s) n0 n1 n2 cmd cause =
      .error (.busError cmd (loByte cause))) ∧
    (s.err = .crcMismatch → libOutcome op f (readReg .status s) n0 n1 n2 cmd cause = .error (.crcMismatch cmd))

/-! ### The port -/

/-- Derived from 60_exceptions.md R236 and 00_scope.md R10: the port's access is that of exactly one of the NUM_HOSTS hosts, from
its program where State holds it (log entry 13), and a cycle that grants any other number is as one that grants none. -/
def Obligations.PortServesOnlyTheHosts : Prop :=
  (∀ s a, portAccess s = some a ↔ ∃ k, k < s.config.numHosts ∧
    (((draw s).grant = .loaded k ∧ ∃ h, s.hosts[k]? = some h ∧ hostAccess k h = some a) ∨
     ((draw s).grant = .other k a ∧ s.hosts[k]? = none))) ∧
  ∀ s k, s.config.numHosts ≤ k → ((draw s).grant = .loaded k ∨ ∃ a, (draw s).grant = .other k a) →
    step s = step (withGrant .none s)

/-- Derived from 46_host_sequences.md R199: `open` stores the bus handle and the unit preference, Celsius where none is given, and
makes no block access; an operation loaded on the handle keeps both. That a bus handle is a number is the model's choice (log
entry 17). -/
def Obligations.OpenStoresTheHandle : Prop :=
  (∀ b f, (openHandle b f).bus = b ∧ (openHandle b f).fahrenheit = f ∧ ∀ k, hostAccess k (openHandle b f) = none) ∧
  (∀ b, (openHandle b).fahrenheit = false) ∧
  ∀ op h, ∃ g, loadLibOp op h = some g ∧ g.bus = h.bus ∧ g.fahrenheit = h.fahrenheit
end

