-- ==== Sys2Proof/Laws/Catalog.lean ====
section
/-! SUPPORT. The small lemmas of the catalog and the decoder (30_encoding.md R95, R100). -/

namespace Sys2Proof.Laws

/-- The catalog's rows are at their indices (30_encoding.md R95). -/
@[simp] theorem catalogAt_catalogIndex (i : Instr) : catalogAt (catalogIndex i) = i := by
  cases i <;> rfl

/-- "The eight opcodes are distinct" (30_encoding.md R100). -/
theorem catalog_opcodes_distinct : (catalog.map fun i => (descriptor i).opcode).Nodup := by decide

/-- Every command is a row of the catalog. -/
theorem mem_catalog (i : Instr) : i ∈ catalog := by cases i <;> decide

/-- What the decoder answers is the row whose opcode was asked for. -/
theorem opcode_of_decodeWord {w : Word} {i : Instr} (h : decodeWord w = some i) : (descriptor i).opcode = w := by
  simpa using List.find?_some h

/-- A rejected word is no row's opcode (30_encoding.md R101). -/
theorem decodeWord_eq_none {w : Word} : decodeWord w = none ↔ ∀ i, encode i ≠ w := by
  simp [decodeWord, encode, List.find?_eq_none, mem_catalog]

end Sys2Proof.Laws
end

