-- ==== Sys2Proof/Laws/Crc.lean ====
section
/-! SUPPORT. The small lemmas of the CRC loop: each of its steps is linear over GF(2) (40_crc8.md R129). -/

namespace Sys2Proof.Laws

open Sys2Proof.Machine

/-- What is XORed into both operands cancels. -/
theorem xor_cancel_both (x y c : Byte) : (x ^^^ c) ^^^ (y ^^^ c) = x ^^^ y := by
  have : (x ^^^ c) ^^^ (y ^^^ c) = (x ^^^ y) ^^^ (c ^^^ c) := by ac_rfl
  simpa using this

/-- One step of the loop is linear. -/
theorem crcShift_xor (a b : Byte) : crcShift (a ^^^ b) = crcShift a ^^^ crcShift b := by
  unfold crcShift
  rw [BitVec.getLsbD_xor, BitVec.shiftLeft_xor_distrib]
  cases a.getLsbD 7 <;> cases b.getLsbD 7
  · rfl
  · exact BitVec.xor_assoc _ _ _
  · show _ = (a <<< 1 ^^^ 0x31#8) ^^^ b <<< 1
    show (a <<< 1 ^^^ b <<< 1) ^^^ 0x31#8 = _
    ac_rfl
  · exact (xor_cancel_both _ _ _).symm

/-- So are `n` steps. -/
theorem crcShifts_xor (n : Nat) (a b : Byte) : crcShifts n (a ^^^ b) = crcShifts n a ^^^ crcShifts n b := by
  induction n generalizing a b with
  | zero => rfl
  | succ n ih => simp only [crcShifts, crcShift_xor, ih]

/-- Nothing shifted is nothing. -/
@[simp] theorem crcShifts_zero (n : Nat) : crcShifts n 0#8 = 0#8 := by
  induction n with
  | zero => rfl
  | succ n ih => exact ih

/-- One more triplet is checked. -/
theorem rspAllOk_iff (data : BitVec 72) (w : Nat) : rspAllOk data w = true ↔ ∀ k < w, rspOk data k = true := by
  induction w with
  | zero => simp [rspAllOk]
  | succ w ih =>
    rw [rspAllOk, Bool.and_eq_true, ih, Nat.forall_lt_succ_right]

/-- A triplet verifies when its CRC is the byte transmitted (40_crc8.md R125). -/
theorem tripletOk_iff (hi lo c : Byte) : tripletOk hi lo c = true ↔ crc8 hi lo = c := by simp [tripletOk]

end Sys2Proof.Laws
end

