-- ==== Sys2Proof/Laws/HostAgent.lean ====
section
/-! SUPPORT. The small lemmas of the host agents: variables, branches, and what a granted cycle does to a host. -/

namespace Sys2Proof.Laws

open Sys2Proof.Machine

/-- The keys of a host's variables strictly rise. -/
def varsSorted (vs : List (Var × Word)) : Prop := (vs.map Prod.fst).Pairwise (· < ·)

/-- A variable reads as it was last written. -/
@[simp] theorem lookupVar_setVar_self (vs : List (Var × Word)) (v : Var) (x : Word) :
    lookupVar (setVar vs v x) v = some x := by
  induction vs with
  | nil => simp [setVar, lookupVar]
  | cons p vs ih =>
    obtain ⟨u, y⟩ := p
    by_cases h1 : v < u
    · simp [setVar, lookupVar, h1]
    · by_cases h2 : v = u
      · simp [setVar, lookupVar, h2]
      · simp [setVar, lookupVar, h1, h2, ih, Ne.symm h2]

/-- A write leaves every other variable alone. -/
theorem lookupVar_setVar_ne (vs : List (Var × Word)) {u v : Var} (x : Word) (h : u ≠ v) :
    lookupVar (setVar vs v x) u = lookupVar vs u := by
  induction vs with
  | nil => simp [setVar, lookupVar, Ne.symm h]
  | cons p vs ih =>
    obtain ⟨w, y⟩ := p
    by_cases h1 : v < w
    · simp [setVar, lookupVar, h1, Ne.symm h]
    · by_cases h2 : v = w
      · subst h2; simp [setVar, lookupVar, Ne.symm h]
      · simp [setVar, lookupVar, h1, h2, ih]

/-- The keys of a written list are the old ones and the new one. -/
theorem mem_keys_setVar (vs : List (Var × Word)) (v : Var) (x : Word) (u : Var)
    (h : u ∈ (setVar vs v x).map Prod.fst) : u = v ∨ u ∈ vs.map Prod.fst := by
  induction vs with
  | nil => simpa [setVar] using h
  | cons p vs ih =>
    obtain ⟨w, y⟩ := p
    by_cases h1 : v < w
    · simpa [setVar, h1] using h
    · by_cases h2 : v = w
      · subst h2; simp [setVar] at h; simp; tauto
      · simp only [setVar, h1, h2, if_false, List.map_cons, List.mem_cons] at h ⊢
        rcases h with h | h
        · exact .inr (.inl h)
        · rcases ih h with h | h
          · exact .inl h
          · exact .inr (.inr h)

/-- A write keeps the keys strictly rising. -/
theorem varsSorted_setVar {vs : List (Var × Word)} (v : Var) (x : Word) (h : varsSorted vs) :
    varsSorted (setVar vs v x) := by
  induction vs with
  | nil => simp [setVar, varsSorted]
  | cons p vs ih =>
    obtain ⟨w, y⟩ := p
    have hw : ∀ u ∈ vs.map Prod.fst, w < u := fun _ hu => List.rel_of_pairwise_cons h hu
    have ht : varsSorted vs := List.Pairwise.of_cons h
    by_cases h1 : v < w
    · simp only [setVar, h1, if_true, varsSorted, List.map_cons]
      refine List.Pairwise.cons (fun u hu => ?_) h
      rcases List.mem_cons.1 hu with rfl | hu
      · exact h1
      · exact lt_trans h1 (hw u hu)
    · by_cases h2 : v = w
      · subst h2; simpa [setVar, varsSorted] using h
      · simp only [setVar, h1, h2, if_false, varsSorted, List.map_cons]
        refine List.Pairwise.cons (fun u hu => ?_) (ih ht)
        rcases mem_keys_setVar vs v x u hu with rfl | hu
        · exact lt_of_le_of_ne (not_lt.1 h1) (Ne.symm h2)
        · exact hw u hu

/-- Branches change the place in the program and nothing else. -/
theorem runBranches_eq (k n : Nat) (h : HostAgent) :
    ∃ p, runBranches k n h = { h with pc := p } := by
  induction n generalizing h with
  | zero => exact ⟨h.pc, rfl⟩
  | succ n ih =>
    unfold runBranches
    split
    · obtain ⟨p, hp⟩ := ih { h with pc := _ }
      exact ⟨p, hp⟩
    · exact ⟨h.pc, rfl⟩

@[simp] theorem atAccess_prog (k : Nat) (h : HostAgent) : (atAccess k h).prog = h.prog := by
  obtain ⟨p, hp⟩ := runBranches_eq k h.prog.length h
  simp [atAccess, hp]

@[simp] theorem atAccess_vars (k : Nat) (h : HostAgent) : (atAccess k h).vars = h.vars := by
  obtain ⟨p, hp⟩ := runBranches_eq k h.prog.length h
  simp [atAccess, hp]

@[simp] theorem atAccess_fahrenheit (k : Nat) (h : HostAgent) : (atAccess k h).fahrenheit = h.fahrenheit := by
  obtain ⟨p, hp⟩ := runBranches_eq k h.prog.length h
  simp [atAccess, hp]

@[simp] theorem atAccess_bus (k : Nat) (h : HostAgent) : (atAccess k h).bus = h.bus := by
  obtain ⟨p, hp⟩ := runBranches_eq k h.prog.length h
  simp [atAccess, hp]

/-- At a statement that is no branch, no branch is run. -/
theorem runBranches_at_access (k n : Nat) (h : HostAgent)
    (hb : ∀ v m x t, h.prog[h.pc]? ≠ some (.bne v m x t)) : runBranches k n h = h := by
  cases n with
  | zero => rfl
  | succ n =>
    unfold runBranches
    split
    · exact absurd ‹_› (hb _ _ _ _)
    · rfl

/-- A host's program, unit and bus handle never change. -/
@[simp] theorem hostAfterAccess_prog (k : Nat) (p : Bool) (x : Word) (h : HostAgent) :
    (hostAfterAccess k p x h).prog = h.prog := by
  unfold hostAfterAccess; split <;> [split; skip; skip] <;> simp

@[simp] theorem hostAfterAccess_fahrenheit (k : Nat) (p : Bool) (x : Word) (h : HostAgent) :
    (hostAfterAccess k p x h).fahrenheit = h.fahrenheit := by
  unfold hostAfterAccess; split <;> [split; skip; skip] <;> simp

@[simp] theorem hostAfterAccess_bus (k : Nat) (p : Bool) (x : Word) (h : HostAgent) :
    (hostAfterAccess k p x h).bus = h.bus := by
  unfold hostAfterAccess; split <;> [split; skip; skip] <;> simp

end Sys2Proof.Laws
end

