-- ==== Sys2Proof/Laws/Operands.lean ====
section
/-! SUPPORT. The small lemmas of the operand helpers: a word is its two bytes (20_memory.md R60 to R62), and a register is at
its index (10_state.md R30). -/

namespace Sys2Proof.Laws

open Sys2Proof.Machine

/-- The word of two bytes as a number. -/
theorem toNat_wordOf (hi lo : Byte) : (wordOf hi lo).toNat = hi.toNat * 256 + lo.toNat := by
  have h := BitVec.toNat_append hi lo
  rw [← Nat.shiftLeft_add_eq_or_of_lt lo.isLt, Nat.shiftLeft_eq] at h
  exact h

/-- The first byte of a word made of two. -/
@[simp] theorem hiByte_wordOf (hi lo : Byte) : hiByte (wordOf hi lo) = hi := by
  apply BitVec.eq_of_toNat_eq
  rw [hiByte, BitVec.extractLsb'_toNat, toNat_wordOf, Nat.shiftRight_eq_div_pow]
  have := hi.isLt
  have := lo.isLt
  omega

/-- The second byte of a word made of two. -/
@[simp] theorem loByte_wordOf (hi lo : Byte) : loByte (wordOf hi lo) = lo := by
  apply BitVec.eq_of_toNat_eq
  rw [loByte, BitVec.extractLsb'_toNat, toNat_wordOf, Nat.shiftRight_zero]
  have := lo.isLt
  omega

/-- A word is made of its two bytes. -/
@[simp] theorem wordOf_bytes (w : Word) : wordOf (hiByte w) (loByte w) = w := by
  apply BitVec.eq_of_toNat_eq
  rw [toNat_wordOf, hiByte, loByte, BitVec.extractLsb'_toNat, BitVec.extractLsb'_toNat, Nat.shiftRight_zero,
    Nat.shiftRight_eq_div_pow]
  have := w.isLt
  omega

/-- The bus bytes of a word are its two bytes, the first one first. -/
theorem busBytes_eq (w : Word) : busBytes w = [hiByte w, loByte w] := rfl

/-- The bus bytes of a word made of two. -/
@[simp] theorem busBytes_wordOf (hi lo : Byte) : busBytes (wordOf hi lo) = [hi, lo] := by
  rw [busBytes_eq, hiByte_wordOf, loByte_wordOf]

/-- A register is at its index, and no two share one (10_state.md R30: "Every index is used"). -/
@[simp] theorem regAt_regIndex (r : Reg) : regAt (regIndex r) = r := by cases r <;> rfl

@[simp] theorem regIndex_inj {r r' : Reg} : regIndex r = regIndex r' ↔ r = r' := by
  refine ⟨fun h => ?_, fun h => by rw [h]⟩
  rw [← regAt_regIndex r, h, regAt_regIndex]

end Sys2Proof.Laws
end

