-- ==== Sys2Proof/Laws/PerInstr.lean ====
section
/-! SUPPORT. The per-instruction family Catalog: a command's row is well-formed and its word is the two bus bytes of its opcode
(30_encoding.md R92, R95, R96; 00_scope.md R9). -/

namespace Sys2Proof.Laws.Catalog

/-- The command is well-formed, its descriptor has a legal response length and delay, its response is whole triplets, and
its catalog row is at its index. -/
def Statement (i : Instr) : Prop :=
  i.wellFormed = true ∧ (descriptor i).wellFormed = true ∧ 3 * (descriptor i).words = (descriptor i).rlen ∧
  catalog[(catalogIndex i).toNat]? = some i

theorem startPeriodic : Statement .startPeriodic := by unfold Statement; decide
theorem stopPeriodic : Statement .stopPeriodic := by unfold Statement; decide
theorem readMeasurement : Statement .readMeasurement := by unfold Statement; decide
theorem getDataReady : Statement .getDataReady := by unfold Statement; decide
theorem getTempOffset : Statement .getTempOffset := by unfold Statement; decide
theorem getSensorAltitude : Statement .getSensorAltitude := by unfold Statement; decide
theorem getAmbientPressure : Statement .getAmbientPressure := by unfold Statement; decide
theorem reinit : Statement .reinit := by unfold Statement; decide

end Sys2Proof.Laws.Catalog
end

