-- ==== Sys2Proof/Laws/State.lean ====
section
/-! SUPPORT. One lemma per field of State for each of the sequencer's updates: what the operation leaves in the field. All are
true by unfolding. -/

namespace Sys2Proof.Laws

open Sys2Proof.Machine

@[simp] theorem resetBlock_phase (s : State) : (resetBlock s).phase = .idle := rfl
@[simp] theorem resetBlock_cmdOp (s : State) : (resetBlock s).cmdOp = 0x0000#16 := rfl
@[simp] theorem resetBlock_cmdIdx (s : State) : (resetBlock s).cmdIdx = 0#3 := rfl
@[simp] theorem resetBlock_done (s : State) : (resetBlock s).done = false := rfl
@[simp] theorem resetBlock_err (s : State) : (resetBlock s).err = .none := rfl
@[simp] theorem resetBlock_nwords (s : State) : (resetBlock s).nwords = 0#2 := rfl
@[simp] theorem resetBlock_resp0 (s : State) : (resetBlock s).resp0 = 0x0000#16 := rfl
@[simp] theorem resetBlock_resp1 (s : State) : (resetBlock s).resp1 = 0x0000#16 := rfl
@[simp] theorem resetBlock_resp2 (s : State) : (resetBlock s).resp2 = 0x0000#16 := rfl
@[simp] theorem resetBlock_cause (s : State) : (resetBlock s).cause = 0x00#8 := rfl
@[simp] theorem resetBlock_dcnt (s : State) : (resetBlock s).dcnt = 0 := rfl
@[simp] theorem resetBlock_crcInReg (s : State) : (resetBlock s).crcInReg = 0x0000#16 := rfl
@[simp] theorem resetBlock_hosts (s : State) : (resetBlock s).hosts = s.hosts := rfl
@[simp] theorem resetBlock_env (s : State) : (resetBlock s).env = s.env := rfl
@[simp] theorem resetBlock_cycle (s : State) : (resetBlock s).cycle = s.cycle := rfl
@[simp] theorem resetBlock_config (s : State) : (resetBlock s).config = s.config := rfl

@[simp] theorem clearResult_phase (s : State) : (clearResult s).phase = s.phase := rfl
@[simp] theorem clearResult_cmdOp (s : State) : (clearResult s).cmdOp = s.cmdOp := rfl
@[simp] theorem clearResult_cmdIdx (s : State) : (clearResult s).cmdIdx = s.cmdIdx := rfl
@[simp] theorem clearResult_done (s : State) : (clearResult s).done = s.done := rfl
@[simp] theorem clearResult_err (s : State) : (clearResult s).err = s.err := rfl
@[simp] theorem clearResult_nwords (s : State) : (clearResult s).nwords = 0#2 := rfl
@[simp] theorem clearResult_resp0 (s : State) : (clearResult s).resp0 = 0x0000#16 := rfl
@[simp] theorem clearResult_resp1 (s : State) : (clearResult s).resp1 = 0x0000#16 := rfl
@[simp] theorem clearResult_resp2 (s : State) : (clearResult s).resp2 = 0x0000#16 := rfl
@[simp] theorem clearResult_cause (s : State) : (clearResult s).cause = 0x00#8 := rfl
@[simp] theorem clearResult_dcnt (s : State) : (clearResult s).dcnt = s.dcnt := rfl
@[simp] theorem clearResult_crcInReg (s : State) : (clearResult s).crcInReg = s.crcInReg := rfl
@[simp] theorem clearResult_hosts (s : State) : (clearResult s).hosts = s.hosts := rfl
@[simp] theorem clearResult_env (s : State) : (clearResult s).env = s.env := rfl
@[simp] theorem clearResult_cycle (s : State) : (clearResult s).cycle = s.cycle := rfl
@[simp] theorem clearResult_config (s : State) : (clearResult s).config = s.config := rfl

@[simp] theorem accept_phase (i : Instr) (s : State) : (accept i s).phase = .req := rfl
@[simp] theorem accept_cmdOp (i : Instr) (s : State) : (accept i s).cmdOp = encode i := rfl
@[simp] theorem accept_cmdIdx (i : Instr) (s : State) : (accept i s).cmdIdx = catalogIndex i := rfl
@[simp] theorem accept_done (i : Instr) (s : State) : (accept i s).done = false := rfl
@[simp] theorem accept_err (i : Instr) (s : State) : (accept i s).err = .none := rfl
@[simp] theorem accept_nwords (i : Instr) (s : State) : (accept i s).nwords = 0#2 := rfl
@[simp] theorem accept_resp0 (i : Instr) (s : State) : (accept i s).resp0 = 0x0000#16 := rfl
@[simp] theorem accept_resp1 (i : Instr) (s : State) : (accept i s).resp1 = 0x0000#16 := rfl
@[simp] theorem accept_resp2 (i : Instr) (s : State) : (accept i s).resp2 = 0x0000#16 := rfl
@[simp] theorem accept_cause (i : Instr) (s : State) : (accept i s).cause = 0x00#8 := rfl
@[simp] theorem accept_dcnt (i : Instr) (s : State) : (accept i s).dcnt = s.dcnt := rfl
@[simp] theorem accept_crcInReg (i : Instr) (s : State) : (accept i s).crcInReg = s.crcInReg := rfl
@[simp] theorem accept_hosts (i : Instr) (s : State) : (accept i s).hosts = s.hosts := rfl
@[simp] theorem accept_env (i : Instr) (s : State) : (accept i s).env = s.env := rfl
@[simp] theorem accept_cycle (i : Instr) (s : State) : (accept i s).cycle = s.cycle := rfl
@[simp] theorem accept_config (i : Instr) (s : State) : (accept i s).config = s.config := rfl

@[simp] theorem reject_phase (w : Word) (s : State) : (reject w s).phase = s.phase := rfl
@[simp] theorem reject_cmdOp (w : Word) (s : State) : (reject w s).cmdOp = w := rfl
@[simp] theorem reject_cmdIdx (w : Word) (s : State) : (reject w s).cmdIdx = s.cmdIdx := rfl
@[simp] theorem reject_done (w : Word) (s : State) : (reject w s).done = true := rfl
@[simp] theorem reject_err (w : Word) (s : State) : (reject w s).err = .illegalCmd := rfl
@[simp] theorem reject_nwords (w : Word) (s : State) : (reject w s).nwords = 0#2 := rfl
@[simp] theorem reject_resp0 (w : Word) (s : State) : (reject w s).resp0 = 0x0000#16 := rfl
@[simp] theorem reject_resp1 (w : Word) (s : State) : (reject w s).resp1 = 0x0000#16 := rfl
@[simp] theorem reject_resp2 (w : Word) (s : State) : (reject w s).resp2 = 0x0000#16 := rfl
@[simp] theorem reject_cause (w : Word) (s : State) : (reject w s).cause = 0x00#8 := rfl
@[simp] theorem reject_dcnt (w : Word) (s : State) : (reject w s).dcnt = s.dcnt := rfl
@[simp] theorem reject_crcInReg (w : Word) (s : State) : (reject w s).crcInReg = s.crcInReg := rfl
@[simp] theorem reject_hosts (w : Word) (s : State) : (reject w s).hosts = s.hosts := rfl
@[simp] theorem reject_env (w : Word) (s : State) : (reject w s).env = s.env := rfl
@[simp] theorem reject_cycle (w : Word) (s : State) : (reject w s).cycle = s.cycle := rfl
@[simp] theorem reject_config (w : Word) (s : State) : (reject w s).config = s.config := rfl

@[simp] theorem recordBusError_phase (c : Byte) (s : State) : (recordBusError c s).phase = s.phase := rfl
@[simp] theorem recordBusError_cmdOp (c : Byte) (s : State) : (recordBusError c s).cmdOp = s.cmdOp := rfl
@[simp] theorem recordBusError_cmdIdx (c : Byte) (s : State) : (recordBusError c s).cmdIdx = s.cmdIdx := rfl
@[simp] theorem recordBusError_done (c : Byte) (s : State) : (recordBusError c s).done = s.done := rfl
@[simp] theorem recordBusError_err (c : Byte) (s : State) : (recordBusError c s).err = .busError := rfl
@[simp] theorem recordBusError_nwords (c : Byte) (s : State) : (recordBusError c s).nwords = s.nwords := rfl
@[simp] theorem recordBusError_resp0 (c : Byte) (s : State) : (recordBusError c s).resp0 = s.resp0 := rfl
@[simp] theorem recordBusError_resp1 (c : Byte) (s : State) : (recordBusError c s).resp1 = s.resp1 := rfl
@[simp] theorem recordBusError_resp2 (c : Byte) (s : State) : (recordBusError c s).resp2 = s.resp2 := rfl
@[simp] theorem recordBusError_cause (c : Byte) (s : State) : (recordBusError c s).cause = c := rfl
@[simp] theorem recordBusError_dcnt (c : Byte) (s : State) : (recordBusError c s).dcnt = s.dcnt := rfl
@[simp] theorem recordBusError_crcInReg (c : Byte) (s : State) : (recordBusError c s).crcInReg = s.crcInReg := rfl
@[simp] theorem recordBusError_hosts (c : Byte) (s : State) : (recordBusError c s).hosts = s.hosts := rfl
@[simp] theorem recordBusError_env (c : Byte) (s : State) : (recordBusError c s).env = s.env := rfl
@[simp] theorem recordBusError_cycle (c : Byte) (s : State) : (recordBusError c s).cycle = s.cycle := rfl
@[simp] theorem recordBusError_config (c : Byte) (s : State) : (recordBusError c s).config = s.config := rfl

@[simp] theorem recordCrcMismatch_phase (s : State) : (recordCrcMismatch s).phase = s.phase := rfl
@[simp] theorem recordCrcMismatch_cmdOp (s : State) : (recordCrcMismatch s).cmdOp = s.cmdOp := rfl
@[simp] theorem recordCrcMismatch_cmdIdx (s : State) : (recordCrcMismatch s).cmdIdx = s.cmdIdx := rfl
@[simp] theorem recordCrcMismatch_done (s : State) : (recordCrcMismatch s).done = s.done := rfl
@[simp] theorem recordCrcMismatch_err (s : State) : (recordCrcMismatch s).err = .crcMismatch := rfl
@[simp] theorem recordCrcMismatch_nwords (s : State) : (recordCrcMismatch s).nwords = s.nwords := rfl
@[simp] theorem recordCrcMismatch_resp0 (s : State) : (recordCrcMismatch s).resp0 = s.resp0 := rfl
@[simp] theorem recordCrcMismatch_resp1 (s : State) : (recordCrcMismatch s).resp1 = s.resp1 := rfl
@[simp] theorem recordCrcMismatch_resp2 (s : State) : (recordCrcMismatch s).resp2 = s.resp2 := rfl
@[simp] theorem recordCrcMismatch_cause (s : State) : (recordCrcMismatch s).cause = s.cause := rfl
@[simp] theorem recordCrcMismatch_dcnt (s : State) : (recordCrcMismatch s).dcnt = s.dcnt := rfl
@[simp] theorem recordCrcMismatch_crcInReg (s : State) : (recordCrcMismatch s).crcInReg = s.crcInReg := rfl
@[simp] theorem recordCrcMismatch_hosts (s : State) : (recordCrcMismatch s).hosts = s.hosts := rfl
@[simp] theorem recordCrcMismatch_env (s : State) : (recordCrcMismatch s).env = s.env := rfl
@[simp] theorem recordCrcMismatch_cycle (s : State) : (recordCrcMismatch s).cycle = s.cycle := rfl
@[simp] theorem recordCrcMismatch_config (s : State) : (recordCrcMismatch s).config = s.config := rfl

@[simp] theorem complete_phase (s : State) : (complete s).phase = .idle := rfl
@[simp] theorem complete_cmdOp (s : State) : (complete s).cmdOp = s.cmdOp := rfl
@[simp] theorem complete_cmdIdx (s : State) : (complete s).cmdIdx = s.cmdIdx := rfl
@[simp] theorem complete_done (s : State) : (complete s).done = true := rfl
@[simp] theorem complete_err (s : State) : (complete s).err = s.err := rfl
@[simp] theorem complete_nwords (s : State) : (complete s).nwords = s.nwords := rfl
@[simp] theorem complete_resp0 (s : State) : (complete s).resp0 = s.resp0 := rfl
@[simp] theorem complete_resp1 (s : State) : (complete s).resp1 = s.resp1 := rfl
@[simp] theorem complete_resp2 (s : State) : (complete s).resp2 = s.resp2 := rfl
@[simp] theorem complete_cause (s : State) : (complete s).cause = s.cause := rfl
@[simp] theorem complete_dcnt (s : State) : (complete s).dcnt = s.dcnt := rfl
@[simp] theorem complete_crcInReg (s : State) : (complete s).crcInReg = s.crcInReg := rfl
@[simp] theorem complete_hosts (s : State) : (complete s).hosts = s.hosts := rfl
@[simp] theorem complete_env (s : State) : (complete s).env = s.env := rfl
@[simp] theorem complete_cycle (s : State) : (complete s).cycle = s.cycle := rfl
@[simp] theorem complete_config (s : State) : (complete s).config = s.config := rfl

@[simp] theorem advance_phase (s t : State) : (advance s t).phase = t.phase := rfl
@[simp] theorem advance_cmdOp (s t : State) : (advance s t).cmdOp = t.cmdOp := rfl
@[simp] theorem advance_cmdIdx (s t : State) : (advance s t).cmdIdx = t.cmdIdx := rfl
@[simp] theorem advance_done (s t : State) : (advance s t).done = t.done := rfl
@[simp] theorem advance_err (s t : State) : (advance s t).err = t.err := rfl
@[simp] theorem advance_nwords (s t : State) : (advance s t).nwords = t.nwords := rfl
@[simp] theorem advance_resp0 (s t : State) : (advance s t).resp0 = t.resp0 := rfl
@[simp] theorem advance_resp1 (s t : State) : (advance s t).resp1 = t.resp1 := rfl
@[simp] theorem advance_resp2 (s t : State) : (advance s t).resp2 = t.resp2 := rfl
@[simp] theorem advance_cause (s t : State) : (advance s t).cause = t.cause := rfl
@[simp] theorem advance_dcnt (s t : State) : (advance s t).dcnt = t.dcnt := rfl
@[simp] theorem advance_crcInReg (s t : State) : (advance s t).crcInReg = t.crcInReg := rfl
@[simp] theorem advance_hosts (s t : State) : (advance s t).hosts = hostsAfter s := rfl
@[simp] theorem advance_env (s t : State) : (advance s t).env = s.env.tail := rfl
@[simp] theorem advance_cycle (s t : State) : (advance s t).cycle = s.cycle + 1 := rfl
@[simp] theorem advance_config (s t : State) : (advance s t).config = t.config := rfl

@[simp] theorem crcPort_phase (s t : State) : (crcPort s t).phase = t.phase := by
  unfold crcPort; split <;> rfl
@[simp] theorem crcPort_cmdOp (s t : State) : (crcPort s t).cmdOp = t.cmdOp := by
  unfold crcPort; split <;> rfl
@[simp] theorem crcPort_cmdIdx (s t : State) : (crcPort s t).cmdIdx = t.cmdIdx := by
  unfold crcPort; split <;> rfl
@[simp] theorem crcPort_done (s t : State) : (crcPort s t).done = t.done := by
  unfold crcPort; split <;> rfl
@[simp] theorem crcPort_err (s t : State) : (crcPort s t).err = t.err := by
  unfold crcPort; split <;> rfl
@[simp] theorem crcPort_nwords (s t : State) : (crcPort s t).nwords = t.nwords := by
  unfold crcPort; split <;> rfl
@[simp] theorem crcPort_resp0 (s t : State) : (crcPort s t).resp0 = t.resp0 := by
  unfold crcPort; split <;> rfl
@[simp] theorem crcPort_resp1 (s t : State) : (crcPort s t).resp1 = t.resp1 := by
  unfold crcPort; split <;> rfl
@[simp] theorem crcPort_resp2 (s t : State) : (crcPort s t).resp2 = t.resp2 := by
  unfold crcPort; split <;> rfl
@[simp] theorem crcPort_cause (s t : State) : (crcPort s t).cause = t.cause := by
  unfold crcPort; split <;> rfl
@[simp] theorem crcPort_dcnt (s t : State) : (crcPort s t).dcnt = t.dcnt := by
  unfold crcPort; split <;> rfl
@[simp] theorem crcPort_crcInReg (s t : State) :
    (crcPort s t).crcInReg = (writeData .crcIn s).getD t.crcInReg := by
  unfold crcPort; split <;> simp_all
@[simp] theorem crcPort_hosts (s t : State) : (crcPort s t).hosts = t.hosts := by
  unfold crcPort; split <;> rfl
@[simp] theorem crcPort_env (s t : State) : (crcPort s t).env = t.env := by
  unfold crcPort; split <;> rfl
@[simp] theorem crcPort_cycle (s t : State) : (crcPort s t).cycle = t.cycle := by
  unfold crcPort; split <;> rfl
@[simp] theorem crcPort_config (s t : State) : (crcPort s t).config = t.config := by
  unfold crcPort; split <;> rfl

end Sys2Proof.Laws
end

