-- ==== Sys2Proof/Laws/Step.lean ====
section
/-! SUPPORT. What a cycle can do, said once: the sequencer's cases for each phase, the step as one next state, and how the
schedule and the hosts go on. Later proofs cite these and do not unfold `step`. -/

namespace Sys2Proof.Laws

open Sys2Proof.Machine

/-! ### The schedule -/

theorem draw_eq (s : State) : draw s = (s.env[0]?).getD (Config.freeDraw s.cycle) := rfl

/-- The schedule moves on by one cycle. -/
@[simp] theorem drawAt_advance (s t : State) (k : Nat) : drawAt (advance s t) k = drawAt s (k + 1) := by
  simp only [drawAt, advance_env, advance_cycle, List.getElem?_tail]
  congr 2
  omega

@[simp] theorem draw_advance (s t : State) : draw (advance s t) = drawAt s 1 := drawAt_advance s t 0

theorem draw_of_env {s : State} {d : Draw} {ds : List Draw} (h : s.env = d :: ds) : draw s = d := by
  simp [draw, drawAt, h]

/-- No host is lost. -/
@[simp] theorem hostsAfter_length (s : State) : (hostsAfter s).length = s.hosts.length := by
  unfold hostsAfter; split <;> simp

/-! ### The command port -/

/-- The hosts are the numbers below NUM_HOSTS (00_scope.md R10). -/
theorem isHost_iff (s : State) (k : Nat) : isHost s k = true ↔ k < s.config.numHosts := by
  cases k with
  | zero => simp [isHost, Nat.lt_of_succ_le s.config.numHosts_pos]
  | succ k => simp [isHost]

theorem fetch_idle_write {s : State} {w : Word} (hp : s.phase = .idle) (hw : writeData .cmd s = some w) :
    fetch s = match decodeWord w with | some i => .command i | none => .illegal w := by
  cases hd : decodeWord w <;> simp [fetch, hp, hw, hd]

theorem fetch_idle_none {s : State} (hp : s.phase = .idle) (hw : writeData .cmd s = none) : fetch s = .nothing := by
  simp [fetch, hp, hw]

theorem fetch_busy {s : State} (hp : s.phase ≠ .idle) : fetch s = .command (inFlight s) := by
  simp [fetch, hp]

/-- A write to one register is none to another. -/
theorem writeData_unique {s : State} {r r' : Reg} {w : Word} (h : writeData r s = some w) (hr : r' ≠ r) :
    writeData r' s = none := by
  unfold writeData at *
  split at h
  · rename_i a _
    split at h
    · rename_i ha
      simp [ha.2, Ne.symm hr]
    · cases h
  · cases h

/-! ### The request channel -/

/-- In PHASE REQ the request of the command in flight is presented (20_memory.md R66). -/
theorem tRequest_req {s : State} (h : s.phase = .req) : tRequest s = some (requestOf s) := if_pos h

/-- In no other phase is a request presented (20_memory.md R66). -/
@[simp] theorem tRequest_none {s : State} (h : s.phase ≠ .req) : tRequest s = none := if_neg h

/-- A request is presented exactly in PHASE REQ, and it is that of the command in flight. -/
theorem tRequest_eq_some {s : State} {r : Request} : tRequest s = some r ↔ s.phase = .req ∧ requestOf s = r := by
  simp [tRequest]

/-! ### The word that withFetchWord places -/

@[simp] theorem withFetchWord_phase (s : State) (n w : Nat) : (s.withFetchWord n w).phase = .idle := rfl
@[simp] theorem withFetchWord_config (s : State) (n w : Nat) : (s.withFetchWord n w).config = s.config := rfl
@[simp] theorem withFetchWord_draw (s : State) (n w : Nat) : draw (s.withFetchWord n w) = fetchDraw := rfl

/-- The host that withFetchWord loads writes the word to CMD in the coming cycle, whatever the state was. -/
@[simp] theorem withFetchWord_writeData (s : State) (n w : Nat) :
    writeData .cmd (s.withFetchWord n w) = some (BitVec.ofNat 16 (w % 2 ^ n)) := rfl

/-! ### The sequencer -/

/-- Every meaning is its command's cycle, and answers a next state. -/
theorem exec_eq (i : Instr) (s : State) : exec i s = .next (commandCycle i s) := by
  cases i <;> rfl

theorem commandCycle_idle {i : Instr} {s : State} (h : s.phase = .idle) : commandCycle i s = accept i s := by
  simp [commandCycle, h]

theorem commandCycle_req {i : Instr} {s : State} (h : s.phase = .req) :
    commandCycle i s = if (draw s).tReqReady then { s with phase := .wait } else s := by
  simp [commandCycle, h, requestCycle]

theorem commandCycle_wait {i : Instr} {s : State} (h : s.phase = .wait) :
    commandCycle i s = responseCycle (descriptor i) s := by
  simp [commandCycle, h]

theorem commandCycle_delay {i : Instr} {s : State} (h : s.phase = .delay) : commandCycle i s = delayCycle s := by
  simp [commandCycle, h]

/-- How a transaction can end: with a delay to count, or complete. -/
theorem endTransaction_cases (d : Descriptor) (s : State) :
    (0 < delayCycles d s ∧ endTransaction d s = { s with dcnt := delayCycles d s, phase := .delay }) ∨
    (delayCycles d s = 0 ∧ endTransaction d s = complete s) := by
  unfold endTransaction
  split
  · exact .inl ⟨‹_›, rfl⟩
  · exact .inr ⟨by omega, rfl⟩

/-- What a response can record: a bus error, a success without words, all the words, or a CRC mismatch. -/
theorem recordOutcome_cases (d : Descriptor) (ok : Bool) (data : BitVec 72) (cause : Byte) (s : State) :
    (ok = false ∧ recordOutcome d ok data cause s = recordBusError cause s) ∨
    (ok = true ∧ d.words = 0 ∧ recordOutcome d ok data cause s = { s with err := .none }) ∨
    (ok = true ∧ d.words ≠ 0 ∧ rspAllOk data d.words = true ∧
      recordOutcome d ok data cause s = recordWords d.words data s) ∨
    (ok = true ∧ d.words ≠ 0 ∧ rspAllOk data d.words = false ∧
      recordOutcome d ok data cause s = recordCrcMismatch s) := by
  unfold recordOutcome recordSuccess
  cases ok <;> by_cases h : d.words = 0 <;> cases h' : rspAllOk data d.words <;> simp [h]

/-- A response records its outcome and touches nothing but ERR, NWORDS, RESP and CAUSE. -/
theorem recordOutcome_frame (d : Descriptor) (ok : Bool) (data : BitVec 72) (cause : Byte) (s : State) :
    ∃ e n r0 r1 r2 c, recordOutcome d ok data cause s =
      { s with err := e, nwords := n, resp0 := r0, resp1 := r1, resp2 := r2, cause := c } := by
  rcases recordOutcome_cases d ok data cause s with ⟨_, h⟩ | ⟨_, _, h⟩ | ⟨_, _, _, h⟩ | ⟨_, _, _, h⟩ <;> rw [h]
  · exact ⟨.busError, s.nwords, s.resp0, s.resp1, s.resp2, cause, rfl⟩
  · exact ⟨.none, s.nwords, s.resp0, s.resp1, s.resp2, s.cause, rfl⟩
  · exact ⟨_, _, _, _, _, s.cause, rfl⟩
  · exact ⟨.crcMismatch, s.nwords, s.resp0, s.resp1, s.resp2, s.cause, rfl⟩

/-- A command's cycle changes only the sequencer: the CRC port's operand, the agents and the parameters stay. -/
theorem commandCycle_frame (i : Instr) (s : State) :
    (commandCycle i s).crcInReg = s.crcInReg ∧ (commandCycle i s).hosts = s.hosts ∧
    (commandCycle i s).env = s.env ∧ (commandCycle i s).cycle = s.cycle ∧ (commandCycle i s).config = s.config := by
  cases hp : s.phase
  · simp [commandCycle_idle hp]
  · rw [commandCycle_req hp]; split <;> simp
  · rw [commandCycle_wait hp]
    unfold responseCycle
    split
    · obtain ⟨e, n, r0, r1, r2, c, h⟩ := recordOutcome_frame (descriptor i) (draw s).tRspOk (draw s).tRspData
        (draw s).tRspCause s
      rw [h]
      rcases endTransaction_cases (descriptor i)
        { s with err := e, nwords := n, resp0 := r0, resp1 := r1, resp2 := r2, cause := c } with ⟨_, h'⟩ | ⟨_, h'⟩ <;>
        rw [h'] <;> simp
    · simp
  · rw [commandCycle_delay hp]
    unfold delayCycle
    split <;> simp

/-! ### The step -/

/-- The block after this cycle, its agents not yet gone on. -/
def afterCycle (s : State) : State :=
  if (draw s).rst then resetBlock s
  else
    match fetch s with
    | .command i => crcPort s (commandCycle i s)
    | .illegal w => crcPort s (reject w s)
    | .nothing => crcPort s s

/-- Every cycle answers a next state: the block after the cycle, with the agents gone on. -/
theorem step_eq (s : State) : step s = .next (advance s (afterCycle s)) := by
  unfold step afterCycle
  split
  · rfl
  · cases fetch s <;> simp [exec_eq]

/-- What a cycle can do. -/
theorem afterCycle_cases (s : State) :
    ((draw s).rst = true ∧ afterCycle s = resetBlock s) ∨
    ((draw s).rst = false ∧ s.phase = .idle ∧ ∃ i, writeData .cmd s = some (encode i) ∧ afterCycle s = accept i s) ∨
    ((draw s).rst = false ∧ s.phase = .idle ∧ ∃ w, writeData .cmd s = some w ∧ decodeWord w = none ∧
      afterCycle s = reject w s) ∨
    ((draw s).rst = false ∧ s.phase = .idle ∧ writeData .cmd s = none ∧ afterCycle s = crcPort s s) ∨
    ((draw s).rst = false ∧ s.phase ≠ .idle ∧ afterCycle s = crcPort s (commandCycle (inFlight s) s)) := by
  by_cases hr : (draw s).rst = true
  · exact .inl ⟨hr, by simp [afterCycle, hr]⟩
  · have hr' : (draw s).rst = false := by simpa using hr
    by_cases hp : s.phase = .idle
    · cases hw : writeData .cmd s with
      | none => exact .inr (.inr (.inr (.inl ⟨hr', hp, rfl, by simp [afterCycle, hr', fetch_idle_none hp hw]⟩)))
      | some w =>
        have hc : ∀ t, crcPort s t = t := fun t => by
          simp [crcPort, writeData_unique hw (r' := .crcIn) (by decide)]
        cases hd : decodeWord w with
        | some i =>
          have hi : w = encode i := (opcode_of_decodeWord hd).symm
          exact .inr (.inl ⟨hr', hp, i, by rw [hi],
            by simp [afterCycle, hr', fetch_idle_write hp hw, hd, hc, commandCycle_idle hp]⟩)
        | none =>
          exact .inr (.inr (.inl ⟨hr', hp, w, rfl, hd, by simp [afterCycle, hr', fetch_idle_write hp hw, hd, hc]⟩))
    · exact .inr (.inr (.inr (.inr ⟨hr', hp, by simp [afterCycle, hr', fetch_busy hp]⟩)))

/-- The parameters are fixed for the life of the machine. -/
@[simp] theorem afterCycle_config (s : State) : (afterCycle s).config = s.config := by
  rcases afterCycle_cases s with ⟨_, h⟩ | ⟨_, _, _, _, h⟩ | ⟨_, _, _, _, _, h⟩ | ⟨_, _, _, h⟩ | ⟨_, _, h⟩ <;> rw [h] <;>
    simp [(commandCycle_frame _ _).2.2.2.2]

/-! ### Runs -/

@[simp] theorem cycles_zero (s : State) : cycles 0 s = .next s := rfl

theorem cycles_succ (n : Nat) (s : State) : cycles (n + 1) s = cycles n (advance s (afterCycle s)) := by
  rw [cycles, step_eq]

/-- A run of cycles is the host's run of the machine. -/
theorem cycles_eq_run (n : Nat) (s : State) : Host.Core.run Sys2Proof.core n s = cycles n s := by
  induction n generalizing s with
  | zero => rfl
  | succ n ih =>
    rw [cycles_succ, ← ih]
    have h : Sys2Proof.core.step s = .next (advance s (afterCycle s)) := step_eq s
    simp only [Host.Core.run, h]

/-- A run goes on from where its first part ends. -/
theorem cycles_add (m n : Nat) {s t : State} (h : cycles m s = .next t) : cycles (m + n) s = cycles n t := by
  induction m generalizing s with
  | zero => cases h; simp
  | succ m ih => rw [Nat.add_right_comm, cycles_succ]; exact ih (by rw [← cycles_succ]; exact h)

/-- Every run of every length answers a next state. -/
theorem cycles_next (n : Nat) (s : State) : ∃ t, cycles n s = .next t := by
  induction n generalizing s with
  | zero => exact ⟨s, rfl⟩
  | succ n ih => rw [cycles_succ]; exact ih _

end Sys2Proof.Laws
end

