-- ==== Sys2Proof/Tests/Slice0.lean ====
section
/-! SUPPORT. Tests: words and values taken from spec/ (30_encoding.md R95, 42_sensor_commands.md's examples, 95_test_vectors.md
L1 and L2), each about one evaluation or one step; and for every statement with hypotheses a witness that meets them. -/

namespace Sys2Proof.Tests

open Sys2Proof.Machine Sys2Proof.Laws

/-! ### Small states -/

/-- CYCLES_PER_MS = 1, the setting of most vectors of 95_test_vectors.md. -/
def cfg : Config.Params :=
  { cyclesPerMs := 1, dcntW := 9, numHosts := 2, cyclesPerMs_pos := by decide, dcntW_fits := by decide,
    numHosts_pos := by decide }

/-- A cycle in which the outside presents nothing. -/
def quiet : Draw :=
  { rst := false, grant := .none, tReqReady := false, tRspValid := false, tRspOk := false, tRspData := 0#72, tRspCause := 0#8 }

/-- A cycle of reset. -/
def resetDraw : Draw := { quiet with rst := true }

/-- A cycle in which the request is taken. -/
def readyDraw : Draw := { quiet with tReqReady := true }

/-- Response bytes, byte 0 first, as `t_rsp_data` (20_memory.md R68: byte i at bits 8i+7:8i). -/
def dataOf (bytes : List Nat) : BitVec 72 := BitVec.ofNat 72 (bytes.foldr (fun b n => b + 256 * n) 0)

/-- A good response with these bytes. -/
def replyDraw (bytes : List Nat) : Draw := { quiet with tRspValid := true, tRspOk := true, tRspData := dataOf bytes }

/-- A bus error with this cause. -/
def errorDraw (cause : Byte) : Draw := { quiet with tRspValid := true, tRspCause := cause }

/-- A cycle in which host 0, whose program is not held, presents `a`. -/
def accessDraw (a : Access) : Draw := { quiet with grant := .other 0 a }

/-- A cycle in which that host writes `w` to CMD. -/
def cmdWriteDraw (w : Word) : Draw := accessDraw (writeAccess .cmd w)

/-- A cycle in which the loaded host `k` is granted the port. -/
def grantDraw (k : Nat) : Draw := { quiet with grant := .loaded k }

/-- The block just after reset, with these coming cycles. -/
def idleWith (ds : List Draw) : State := { State.reset with config := cfg, env := ds }

/-- Command `i` in flight in phase `p` with `n` cycles of delay left. -/
def inPhase (p : Phase) (i : Instr) (n : Nat) (ds : List Draw) : State :=
  { idleWith ds with phase := p, cmdOp := encode i, cmdIdx := catalogIndex i, dcnt := n }

/-- What a host can read of the sequencer after a step: STATUS, RESP0, RESP1, RESP2, BUS_CAUSE. -/
def observed : Host.Outcome State Fault Refusal → List Word
  | .next t => [readReg .status t, readReg .resp0 t, readReg .resp1 t, readReg .resp2 t, readReg .busCause t]
  | _ => []

/-- PHASE, CMD and what is presented to the transport after a step, the next cycle's reset input being 0. -/
def requested : Host.Outcome State Fault Refusal → Option (Phase × Request)
  | .next t => some (t.phase, requestOf t)
  | _ => none

/-! ### Ill-formed syntax is refused. No command is ill-formed: it has no operand (30_encoding.md R90). -/

theorem test_descriptor_four_bytes_refused :
    ({ opcode := 0x21B1#16, rlen := 4, delayMs := 0 } : Descriptor).wellFormed = false := by decide

theorem test_descriptor_six_bytes_refused :
    ({ opcode := 0xEC05#16, rlen := 6, delayMs := 0 } : Descriptor).wellFormed = false := by decide

theorem test_descriptor_other_delay_refused :
    ({ opcode := 0x21B1#16, rlen := 0, delayMs := 5500 } : Descriptor).wellFormed = false := by decide

theorem test_undefined_label_refused :
    labelsDefined [.bne 0 0x0000#16 0x0001#16 7] = false ∧ assemble [.bne 0 0x0000#16 0x0001#16 7] = none := by decide

theorem test_duplicate_label_refused : labelsDistinct [.label 1, .waitdone, .label 1] = false := by decide

theorem test_wellFormed_program :
    programWellFormed [.label 1, .rd .status 0, .bne 0 0x0003#16 0x0002#16 1] = true := by decide

/-! ### Decoding: each row's word bit by bit (opcode_table.json), as bus bytes most significant first (R60, R90) -/

theorem test_decode_start : decodeBytes [0b00100001#8, 0b10110001#8] = .ok (.startPeriodic, []) := by rfl
theorem test_decode_stop : decodeBytes [0b00111111#8, 0b10000110#8] = .ok (.stopPeriodic, []) := by rfl
theorem test_decode_read : decodeBytes [0b11101100#8, 0b00000101#8] = .ok (.readMeasurement, []) := by rfl
theorem test_decode_ready : decodeBytes [0b11100100#8, 0b10111000#8] = .ok (.getDataReady, []) := by rfl
theorem test_decode_offset : decodeBytes [0b00100011#8, 0b00011000#8] = .ok (.getTempOffset, []) := by rfl
theorem test_decode_altitude : decodeBytes [0b00100011#8, 0b00100010#8] = .ok (.getSensorAltitude, []) := by rfl
theorem test_decode_pressure : decodeBytes [0b11100000#8, 0b00000000#8] = .ok (.getAmbientPressure, []) := by rfl
theorem test_decode_reinit : decodeBytes [0b00110110#8, 0b01000110#8, 0x00#8] = .ok (.reinit, [0x00#8]) := by rfl

/-- 95_test_vectors.md L2.3: reserved, one bit off, byte-swapped; and a truncated stream. -/
theorem test_decode_illegal :
    [0x0000#16, 0xFFFF#16, 0x21B0#16, 0xEC04#16, 0x2319#16, 0xB121#16, 0x1234#16].all
      (fun w => (decodeWord w).isNone) = true ∧ decodeTableWord 16 0x3F86 = some .stopPeriodic ∧
    decodeTableWord 32 0x3F86 = none := by decide

theorem test_decode_truncated : decodeBytes [0x21#8] = .error .truncated := by rfl

theorem test_decode_swapped : decodeBytes [0xB1#8, 0x21#8] = .error (.illegalOpcode 0xB121#16) := by rfl

/-! ### The CRC unit (40_crc8.md R122, R128; 95_test_vectors.md L2.1) -/

theorem test_crc_vectors :
    [(0xBE, 0xEF), (0x01, 0xF4), (0x66, 0x67), (0xA0, 0x0D), (0x00, 0x00), (0xFF, 0xFF), (0x80, 0x00), (0xFF, 0x00)].map
      (fun p : Nat × Nat => crc8 (BitVec.ofNat 8 p.1) (BitVec.ofNat 8 p.2)) =
    [0x92#8, 0x33#8, 0xA2#8, 0x32#8, 0x81#8, 0xAC#8, 0xA2#8, 0x00#8] := by decide +kernel

theorem test_crc_single_bytes :
    crc8Byte 0xFF#8 0x00#8 = 0xAC#8 ∧ crc8Byte 0x00#8 0x01#8 = 0x31#8 ∧ crc8Byte 0x00#8 0x80#8 = 0x7A#8 ∧
    crc8Byte 0xFF#8 0xFF#8 = 0x00#8 := by decide +kernel

/-! ### The eight commands: acceptance and the response cycle, one step each -/

theorem test_start_accept : requested (step (idleWith [cmdWriteDraw 0x21B1#16])) =
    some (.req, { wdata := 0x21B1#16, rlen := 0#4 }) := by decide

/-- L2.4 trace C: a bus error with cause 0x05 completes at once. -/
theorem test_start_bus_error : observed (step (inPhase .wait .startPeriodic 0 [errorDraw 0x05#8])) =
    [0x0006#16, 0#16, 0#16, 0#16, 0x0005#16] := by decide

theorem test_stop_accept : requested (step (idleWith [cmdWriteDraw 0x3F86#16])) =
    some (.req, { wdata := 0x3F86#16, rlen := 0#4 }) := by decide

/-- L2.4 trace E: the delay is counted after a bus error. -/
theorem test_stop_bus_error : observed (step (inPhase .wait .stopPeriodic 0 [errorDraw 0x2A#8])) =
    [0x00C5#16, 0#16, 0#16, 0#16, 0x002A#16] := by decide

/-- R172's example. -/
theorem test_read_reply : observed (step (inPhase .wait .readMeasurement 0
    [replyDraw [0x01, 0xF4, 0x33, 0x66, 0x67, 0xA2, 0xA0, 0x0D, 0x32]])) =
    [0x0032#16, 0x01F4#16, 0x6667#16, 0xA00D#16, 0#16] := by decide +kernel

/-- L2.6: the last triplet alone fails, and every word is discarded. -/
theorem test_read_last_crc : observed (step (inPhase .wait .readMeasurement 0
    [replyDraw [0x01, 0xF4, 0x33, 0x66, 0x67, 0xA2, 0xA0, 0x0D, 0x33]])) =
    [0x000A#16, 0#16, 0#16, 0#16, 0#16] := by decide +kernel

/-- R173's example and trace A, with bytes beyond RLEN, which are ignored. -/
theorem test_ready_reply : observed (step (inPhase .wait .getDataReady 0
    [replyDraw [0x80, 0x0B, 0x48, 1, 2, 3, 4, 5, 6]])) = [0x00D1#16, 0x800B#16, 0#16, 0#16, 0#16] := by decide +kernel

theorem test_ready_done : observed (step { inPhase .delay .getDataReady 1 [quiet] with nwords := 1#2, resp0 := 0x800B#16 }) =
    [0x0012#16, 0x800B#16, 0#16, 0#16, 0#16] := by decide

theorem test_offset_reply : observed (step (inPhase .wait .getTempOffset 0 [replyDraw [0x09, 0x12, 0x63]])) =
    [0x00D1#16, 0x0912#16, 0#16, 0#16, 0#16] := by decide +kernel

theorem test_offset_accept : requested (step (idleWith [cmdWriteDraw 0x2318#16])) =
    some (.req, { wdata := 0x2318#16, rlen := 3#4 }) := by decide

/-- L2.4 trace B, cycle 5. -/
theorem test_altitude_bad_crc : observed (step (inPhase .wait .getSensorAltitude 0 [replyDraw [0x00, 0x64, 0xFF]])) =
    [0x00C9#16, 0#16, 0#16, 0#16, 0#16] := by decide +kernel

theorem test_altitude_reply : observed (step (inPhase .wait .getSensorAltitude 0 [replyDraw [0x00, 0x64, 0xFE]])) =
    [0x00D1#16, 0x0064#16, 0#16, 0#16, 0#16] := by decide +kernel

theorem test_pressure_reply : observed (step (inPhase .wait .getAmbientPressure 0 [replyDraw [0x03, 0xE8, 0xD4]])) =
    [0x00D1#16, 0x03E8#16, 0#16, 0#16, 0#16] := by decide +kernel

theorem test_pressure_bus_error : observed (step (inPhase .wait .getAmbientPressure 0 [errorDraw 0x01#8])) =
    [0x00C5#16, 0#16, 0#16, 0#16, 0x0001#16] := by decide

theorem test_reinit_accept : requested (step (idleWith [cmdWriteDraw 0x3646#16])) =
    some (.req, { wdata := 0x3646#16, rlen := 0#4 }) := by decide

theorem test_reinit_reply : observed (step (inPhase .wait .reinit 0 [replyDraw []])) =
    [0x00C1#16, 0#16, 0#16, 0#16, 0#16] := by decide

/-! ### The rest of the block -/

/-- R178's example. -/
theorem test_illegal : observed (step (idleWith [cmdWriteDraw 0x1234#16])) = [0x000E#16, 0#16, 0#16, 0#16, 0#16] := by decide

/-- R60's example: opcode 0x3F86 goes out as 0x3F, 0x86, to address 0x62. -/
theorem test_transaction : transactionOf { wdata := 0x3F86#16, rlen := 0#4 } =
    { addr := 0x62#7, wbytes := [0x3F#8, 0x86#8], rlen := 0 } := by decide

/-- R66: the request is presented in every cycle with PHASE = REQ, a reset cycle too, where h_wait is 0 (R254); R50: no request
in a reset cycle with PHASE = IDLE. -/
theorem test_reset_outputs : tRequest (inPhase .req .getDataReady 0 [{ cmdWriteDraw 0x21B1#16 with rst := true }]) =
      some { wdata := 0xE4B8#16, rlen := 3#4 } ∧
    hWait (inPhase .req .getDataReady 0 [{ cmdWriteDraw 0x21B1#16 with rst := true }]) = false ∧
    tRequest (idleWith [resetDraw]) = none := by decide

/-- L2.4's hold vector: in DELAY a CMD write waits, a CRC_IN write does not. -/
theorem test_hold : hWait (inPhase .delay .getDataReady 2 [cmdWriteDraw 0x21B1#16]) = true ∧
    hWait (inPhase .delay .getDataReady 2 [accessDraw (writeAccess .crcIn 0xFF00#16)]) = false := by decide

/-- L2.2: a read of CRC_OUT in the cycle of a CRC_IN write gives the old value; here 0x0081, that of reset. -/
theorem test_crcOut_after_reset : readReg .crcOut State.reset = 0x0081#16 := by decide +kernel

/-- L2.8: the exact conversions. -/
theorem test_conversions : temp 0x4000#16 = -5 / 4 ∧ fahrenheitOf (temp 0x8000#16) = 217 / 2 ∧ rh 0xA00D#16 = 1024325 / 16384 ∧
    temp 0x0912#16 = -1271385 / 32768 ∧ fahrenheitOf (-40) = -40 := by
  norm_num [temp, fahrenheitOf, rh]

/-- L2.8 and R194: the reserved bits do not count. -/
theorem test_ready_flag : dataReadyFlag 0x8000#16 = false ∧ dataReadyFlag 0x0800#16 = false ∧ dataReadyFlag 0x8006#16 = true := by
  decide

/-- R199: a handle opened on another bus, in Fahrenheit, keeps both through an operation's load. -/
theorem test_open : (loadLibOp .dataReady (openHandle { name := 3 } true)).map (fun h => (h.bus, h.fahrenheit)) =
    some ({ name := 3 }, true) := by decide

/-- P1 of 95_test_vectors.md: its access tuples in order. -/
theorem test_assemble_p1 :
    assemble [.wr .crcIn 0xBEEF#16, .rd .crcOut 1, .bne 1 0x00FF#16 0x0092#16 0, .label 0, .rd .crcIn 2] =
    some [.wr .crcIn 0xBEEF#16, .rd .crcOut 1, .bne 1 0x00FF#16 0x0092#16 3, .rd .crcIn 2] := by decide

/-- The host's three entry points agree: the word placed is the instruction run. -/
theorem test_withFetchWord : requested (step (State.reset.withFetchWord 16 0xE4B8)) =
    some (.req, { wdata := 0xE4B8#16, rlen := 3#4 }) := by decide

/-! ### Witnesses: a state and operands that meet the hypotheses of each statement, clause by clause -/

/-- A read or a write by a host whose program is not held, as one cycle. -/
def rdDraw (r : Reg) : Draw := accessDraw (readAccess r)
/-- The write. -/
def wrDraw (r : Reg) (w : Word) : Draw := accessDraw (writeAccess r w)

/-- A host at its only statement. -/
def hostAt (st : Stmt) : HostAgent := { prog := [st] }

/-- The invariant holds in the witnesses with a command before its response. -/
theorem inv_inPhase (p : Phase) (hp : p = .req ∨ p = .wait) (i : Instr) (ds : List Draw) : StateInv (inPhase p i 0 ds) := by
  rcases hp with rfl | rfl <;> constructor <;> simp [inPhase, idleWith, State.reset, inFlight]

/-- Command `i` written to the idle block, its request taken in the first cycle of REQ, answered in the first of WAIT. -/
def servedState (i : Instr) : State :=
  idleWith ([cmdWriteDraw (encode i), readyDraw, errorDraw 0x2A#8] ++ List.replicate 501 quiet)

theorem servedState_drawAt (i : Instr) (k : Nat) (hk : k ≤ 502) : (drawAt (servedState i) k).rst = false := by
  rcases k with _ | _ | _ | k
  · rfl
  · rfl
  · rfl
  · have h : k < 501 := by omega
    have e : (servedState i).env[k + 3]? = some quiet := by
      show (List.replicate 501 quiet)[k]? = some quiet
      rw [List.getElem?_replicate, if_pos h]
    show (((servedState i).env[k + 3]?).getD _).rst = false
    rw [e]
    rfl

theorem served_witness (i : Instr) : Served (servedState i) i 1 1 where
  idle := rfl
  written := by cases i <;> decide
  q_pos := le_rfl
  w_pos := le_rfl
  not_ready := fun k h1 h2 => by omega
  ready := rfl
  no_response := fun k h1 h2 => by omega
  response := rfl
  no_reset := fun k hk => servedState_drawAt i k (by
    have : delayCycles (descriptor i) (servedState i) ≤ 500 := by cases i <;> decide
    omega)

/-- L2.4 trace B: two cycles of REQ, three of WAIT, one of DELAY. -/
theorem served_traceB : Served (idleWith
    [cmdWriteDraw 0x2322#16, quiet, readyDraw, quiet, quiet, replyDraw [0x00, 0x64, 0xFF], quiet]) .getSensorAltitude 2 3 where
  idle := rfl
  written := by decide
  q_pos := by decide
  w_pos := by decide
  not_ready := fun k h1 h2 => by interval_cases k; rfl
  ready := rfl
  no_response := fun k h1 h2 => by interval_cases k <;> rfl
  response := rfl
  no_reset := fun k hk => by
    have h : k ≤ 6 := hk
    interval_cases k <;> rfl

theorem witness_CrcDetectsEverySingleBitError : tripletOk 0x01#8 0xF4#8 0x33#8 = true ∧ 0 < 8 ∧ 7 < 8 := by decide +kernel

theorem witness_CrcInWriteIsVisibleNextCycle :
    (∃ s, s.phase = .delay ∧ (draw s).rst = false ∧ writeData .crcIn s = some 0xFFFF#16) ∧
    (∃ s, (draw s).rst = false ∧ writeData .crcIn s = none ∧ s.crcInReg = 0xBEEF#16) ∧
    ∃ s, (draw s).rst = true ∧ writeData .crcIn s = some 0xBEEF#16 :=
  ⟨⟨inPhase .delay .reinit 3 [wrDraw .crcIn 0xFFFF#16], by decide⟩,
   ⟨{ idleWith [rdDraw .crcOut] with crcInReg := 0xBEEF#16 }, by decide⟩,
   ⟨idleWith [{ wrDraw .crcIn 0xBEEF#16 with rst := true }], by decide⟩⟩

theorem witness_CrcPortNeverReachesTheSequencer :
    (∃ s, s.phase = .wait ∧ (draw s).tRspValid = true ∧ writeData .crcIn s = some 0x0000#16) ∧
    ∃ s : State, s.hosts = [] ∧ s.crcInReg ≠ 0x1234#16 :=
  ⟨⟨inPhase .wait .reinit 0 [{ wrDraw .crcIn 0x0000#16 with tRspValid := true }], by decide⟩, ⟨idleWith [], by decide⟩⟩

theorem witness_StatusFieldsAreTheFlags : ∃ s a, StateInv s ∧ portAccess s = some a ∧ a.we = true ∧ a.addr = 1#3 :=
  ⟨inPhase .wait .reinit 0 [wrDraw .status 0xFFFF#16], writeAccess .status 0xFFFF#16, inv_inPhase .wait (.inr rfl) .reinit _,
   by decide⟩

theorem witness_HostReadGivesTheRegister :
    [Reg.cmd, .status, .resp0, .resp1, .resp2, .busCause, .crcIn, .crcOut].map regIndex =
      [0#3, 1#3, 2#3, 3#3, 4#3, 5#3, 6#3, 7#3] ∧
    ∀ r, ∃ s a, portAccess s = some a ∧ a.we = false ∧ a.addr = regIndex r := by
  refine ⟨by decide, fun r => ⟨inPhase .wait .reinit 0 [rdDraw r], readAccess r, ?_⟩⟩
  cases r <;> decide

theorem witness_ReadOnlyWriteIsIgnored : ∀ r ∈ [Reg.status, .resp0, .resp1, .resp2, .busCause, .crcOut],
    ∃ s a, portAccess s = some a ∧ a.we = true ∧ a.addr = regIndex r ∧ a.addr ≠ 0#3 ∧ a.addr ≠ 6#3 := by
  intro r hr
  refine ⟨idleWith [wrDraw r 0x1234#16], writeAccess r 0x1234#16, ?_⟩
  revert hr
  cases r <;> decide

theorem witness_CmdWriteIsHeldWhileBusy :
    (∃ s, hWait s = true ∧ grantedHost s = some (1, hostAt (.wr .cmd 0x1234#16))) ∧
    ∃ s, (draw s).rst = false ∧ s.phase = .idle ∧ writeData .cmd s = some 0x1234#16 :=
  ⟨⟨{ inPhase .req .reinit 0 [grantDraw 1] with hosts := [hostAt (.rd .status 0), hostAt (.wr .cmd 0x1234#16)] }, by decide⟩,
   ⟨idleWith [cmdWriteDraw 0x1234#16], by decide⟩⟩

theorem witness_ResetCycleLeavesResetValues : ∃ s, (draw s).rst = true ∧ s.phase = .delay ∧ writeData .cmd s = some 0x21B1#16 :=
  ⟨inPhase .delay .stopPeriodic 83 [{ cmdWriteDraw 0x21B1#16 with rst := true }], by decide⟩

theorem witness_AfterResetTheBlockIsReady : ∃ s t, (draw s).rst = true ∧ step s = .next t ∧ (draw t).rst = false ∧
    writeData .cmd t = some (encode .reinit) :=
  ⟨inPhase .delay .stopPeriodic 83 [resetDraw, cmdWriteDraw 0x3646#16],
   { idleWith [cmdWriteDraw 0x3646#16] with cycle := 1 }, rfl, rfl, by decide⟩

theorem witness_ResetCycleWriteIsPresentedAgain : ∃ s h, (draw s).rst = true ∧ grantedHost s = some (0, h) ∧
    nextStmt 0 h = some (.wr .crcIn 0xBEEF#16) :=
  ⟨{ idleWith [{ grantDraw 0 with rst := true }] with hosts := [hostAt (.wr .crcIn 0xBEEF#16)] },
   hostAt (.wr .crcIn 0xBEEF#16), by decide⟩

theorem witness_AcceptStartsTheCommand : ∀ i, ∃ s, (draw s).rst = false ∧ s.phase = .idle ∧
    writeData .cmd s = some (encode i) := fun i =>
  ⟨idleWith [cmdWriteDraw (encode i)], by cases i <;> decide⟩

theorem witness_StepRunsTheDecodedCommand :
    (∃ s w i, (draw s).rst = false ∧ s.phase = .idle ∧ writeData .cmd s = some w ∧ decodeWord w = some i) ∧
    (∃ s, (draw s).rst = false ∧ s.phase ≠ .idle) ∧ decodeWord 0x2318#16 = some .getTempOffset :=
  ⟨⟨idleWith [cmdWriteDraw 0xEC05#16], 0xEC05#16, .readMeasurement, by decide⟩,
   ⟨inPhase .delay .getDataReady 1 [quiet], by decide⟩, by decide⟩

theorem witness_IllegalOpcodeIsRejected : ∃ s, (draw s).rst = false ∧ s.phase = .idle ∧
    writeData .cmd s = some 0x0000#16 ∧ decodeWord 0x0000#16 = none :=
  ⟨idleWith [cmdWriteDraw 0x0000#16], by decide⟩

theorem witness_RequestWaitsForTheTransport :
    (∃ s, s.phase = .req ∧ (draw s).tReqReady = true) ∧ (∃ s, s.phase = .req ∧ (draw s).tReqReady = false) ∧
    (∃ s : State, s.phase ≠ .req) ∧ ∃ s, s.phase = .req ∧ (draw s).rst = true :=
  ⟨⟨inPhase .req .getDataReady 0 [readyDraw], by decide⟩, ⟨inPhase .req .getDataReady 0 [quiet], by decide⟩,
   ⟨idleWith [], by decide⟩, ⟨inPhase .req .getDataReady 0 [resetDraw], by decide⟩⟩

theorem witness_BusErrorIsRecorded :
    (∃ s i, s.phase = .wait ∧ (draw s).tRspValid = true ∧ (draw s).tRspOk = false ∧
      (descriptor i).delayMs * s.config.cyclesPerMs = 0) ∧
    ∃ s i, s.phase = .wait ∧ (draw s).tRspValid = true ∧ (draw s).tRspOk = false ∧
      0 < (descriptor i).delayMs * s.config.cyclesPerMs :=
  ⟨⟨inPhase .wait .startPeriodic 0 [errorDraw 0x05#8], .startPeriodic, by decide⟩,
   ⟨inPhase .wait .getDataReady 0 [errorDraw 0x05#8], .getDataReady, by decide⟩⟩

/-- A write-only command; three good triplets; a bad last triplet; a bad first. -/
theorem witness_ResponseWordsAreVerifiedTogether : ∀ i bytes,
    (i, bytes) ∈ [(Instr.reinit, []), (.getDataReady, [0x80, 0x0B, 0x48]),
      (.readMeasurement, [0x01, 0xF4, 0x33, 0x66, 0x67, 0xA2, 0xA0, 0x0D, 0x32]),
      (.readMeasurement, [0x01, 0xF4, 0x33, 0x66, 0x67, 0xA2, 0xA0, 0x0D, 0x33]),
      (.readMeasurement, [0x01, 0xF4, 0x34, 0x66, 0x67, 0xA2, 0xA0, 0x0D, 0x32])] →
    ∃ s, StateInv s ∧ s.phase = .wait ∧ (draw s).tRspValid = true ∧ (draw s).tRspOk = true ∧
      (draw s).tRspData = dataOf bytes := fun i bytes _ =>
  ⟨inPhase .wait i 0 [replyDraw bytes], inv_inPhase .wait (.inr rfl) i _, rfl, rfl, rfl, rfl⟩

/-- The triplets of those responses: `crc8` agrees with the third byte in the good ones and not in the bad ones. -/
theorem witness_ResponseWords_triplets :
    rspAllOk (dataOf [0x01, 0xF4, 0x33, 0x66, 0x67, 0xA2, 0xA0, 0x0D, 0x32]) 3 = true ∧
    rspOk (dataOf [0x01, 0xF4, 0x33, 0x66, 0x67, 0xA2, 0xA0, 0x0D, 0x33]) 2 = false ∧
    rspOk (dataOf [0x01, 0xF4, 0x34, 0x66, 0x67, 0xA2, 0xA0, 0x0D, 0x32]) 0 = false := by decide +kernel

theorem witness_TransactionEndLoadsTheDelay :
    (∃ s, s.phase = .wait ∧ (draw s).tRspValid = true ∧ 0 < (descriptor .getTempOffset).delayMs * s.config.cyclesPerMs) ∧
    (∃ s, s.phase = .wait ∧ (draw s).tRspValid = true ∧ (descriptor .readMeasurement).delayMs * s.config.cyclesPerMs = 0) ∧
    ∃ s, s.phase = .wait ∧ (draw s).tRspValid = false :=
  ⟨⟨inPhase .wait .getTempOffset 0 [replyDraw [0x09, 0x12, 0x63]], by decide⟩,
   ⟨inPhase .wait .readMeasurement 0 [replyDraw []], by decide⟩, ⟨inPhase .wait .reinit 0 [quiet], by decide⟩⟩

theorem witness_DelayLastsExactlyItsCount :
    (∃ s : State, s.phase = .delay ∧ s.dcnt = 1) ∧ (∃ s : State, s.phase = .delay ∧ 1 < s.dcnt) ∧
    ∃ s, s.phase = .delay ∧ s.dcnt = 2 ∧ ∀ k, k < 2 → (drawAt s k).rst = false :=
  ⟨⟨inPhase .delay .getDataReady 1 [], by decide⟩, ⟨inPhase .delay .reinit 2 [], by decide⟩,
   ⟨inPhase .delay .reinit 2 [cmdWriteDraw 0x21B1#16, quiet], by decide⟩⟩

/-- Completion by a response, by a rejection, and an idle cycle with no CMD write. -/
theorem witness_CompletedResultIsFinal :
    (∃ s t, (draw s).rst = false ∧ step s = .next t ∧ s.phase ≠ .idle ∧ t.phase = .idle ∧ s.done = false ∧ t.done = true) ∧
    (∃ s w, (draw s).rst = false ∧ s.phase = .idle ∧ writeData .cmd s = some w ∧ decodeWord w = none) ∧
    ∃ s, (draw s).rst = false ∧ s.phase = .idle ∧ writeData .cmd s = none ∧ s.done = true ∧ s.resp0 = 0x800B#16 :=
  ⟨⟨inPhase .wait .startPeriodic 0 [replyDraw []],
    { inPhase .idle .startPeriodic 0 [] with done := true, cycle := 1 }, rfl, rfl, by decide⟩,
   ⟨idleWith [cmdWriteDraw 0xFFFF#16], 0xFFFF#16, by decide⟩,
   ⟨{ inPhase .idle .getDataReady 0 [wrDraw .resp0 0x1234#16] with done := true, nwords := 1#2, resp0 := 0x800B#16 },
    by decide⟩⟩

theorem witness_PhaseSequenceIsFixed : ∀ p, ∃ s, (draw s).rst = false ∧ s.phase = p := fun p =>
  ⟨inPhase p .reinit 1 [quiet], by cases p <;> decide⟩

theorem witness_CmdOpIsTheLastPerformedWrite :
    (∃ s w, (draw s).rst = false ∧ s.phase = .idle ∧ writeData .cmd s = some w) ∧
    (∃ s, (draw s).rst = false ∧ s.phase ≠ .idle ∧ (writeData .cmd s).isSome = true) ∧
    ∃ s, (draw s).rst = false ∧ s.phase = .idle ∧ writeData .cmd s = none :=
  ⟨⟨idleWith [cmdWriteDraw 0x1234#16], 0x1234#16, by decide⟩, ⟨inPhase .req .reinit 0 [cmdWriteDraw 0x1234#16], by decide⟩,
   ⟨idleWith [rdDraw .cmd], by decide⟩⟩

/-- In IDLE and DELAY every signal may differ; in REQ all of the response; in WAIT `t_req_ready`. -/
theorem witness_StrayTransportSignalsAreIgnored : ∀ p, ∃ (s : State) (d : Draw), s.phase = p ∧ d ≠ draw s ∧
    (s.phase = .req → d.tReqReady = (draw s).tReqReady) ∧
    (s.phase = .wait → d.tRspValid = (draw s).tRspValid ∧ d.tRspOk = (draw s).tRspOk ∧
      d.tRspData = (draw s).tRspData ∧ d.tRspCause = (draw s).tRspCause) := by
  intro p
  cases p
  · exact ⟨inPhase .idle .reinit 0 [quiet], { replyDraw [1] with tReqReady := true }, by decide⟩
  · exact ⟨inPhase .req .reinit 0 [quiet], replyDraw [1], by decide⟩
  · exact ⟨inPhase .wait .reinit 0 [quiet], readyDraw, by decide⟩
  · exact ⟨inPhase .delay .reinit 1 [quiet], { replyDraw [1] with tReqReady := true }, by decide⟩

theorem witness_BytesBeyondRlenAreIgnored : ∃ (s : State) (d : Draw), s.phase = .wait ∧ d.tRspValid = (draw s).tRspValid ∧
    d.tRspOk = (draw s).tRspOk ∧ d.tRspCause = (draw s).tRspCause ∧ d.tRspData ≠ (draw s).tRspData ∧
    ∀ k, k < (descriptor (inFlight s)).rlen → rspByte d.tRspData k = rspByte (draw s).tRspData k := by
  refine ⟨inPhase .wait .getDataReady 0 [replyDraw [0x80, 0x06, 0x04]], replyDraw [0x80, 0x06, 0x04, 0xFF], rfl, rfl, rfl, rfl,
    by decide, fun k hk => ?_⟩
  have h : k < 3 := hk
  interval_cases k <;> decide

/-- The hypotheses of the clauses of `CommandRuns`, for every one of the eight commands. -/
theorem witness_CommandRuns : ∀ i,
    (∃ s : State, s.phase = .idle) ∧
    (∃ s, StateInv s ∧ s.phase = .req ∧ s.cmdIdx = catalogIndex i ∧ (draw s).rst = false) ∧
    (∃ s, StateInv s ∧ s.phase = .wait ∧ (draw s).tRspValid = true) ∧ ∃ s q w, Served s i q w := fun i =>
  ⟨⟨idleWith [], rfl⟩, ⟨inPhase .req i 0 [quiet], inv_inPhase .req (.inl rfl) i _, rfl, rfl, rfl⟩,
   ⟨inPhase .wait i 0 [errorDraw 0x2A#8], inv_inPhase .wait (.inr rfl) i _, rfl, rfl⟩, ⟨servedState i, 1, 1, served_witness i⟩⟩

theorem witness_ServedCommandRunsOnTime :
    (∃ s w, (draw s).rst = false ∧ s.phase = .idle ∧ writeData .cmd s = some w ∧ decodeWord w = none) ∧
    ∀ i, ∃ s q w, Served s i q w :=
  ⟨⟨idleWith [cmdWriteDraw 0x1234#16], 0x1234#16, by decide⟩, fun i => ⟨servedState i, 1, 1, served_witness i⟩⟩

theorem witness_ServedCommandGivesTheCallResult : ∀ i, ∃ s q w, Served s i q w := fun i =>
  ⟨servedState i, 1, 1, served_witness i⟩

/-- With a command written in the first idle cycle, two cycles after the response. -/
theorem witness_SettlingGapIsGuaranteed : ∃ s t, s.phase = .wait ∧ (draw s).tRspValid = true ∧
    (∀ k, k ≤ delayCycles (descriptor (inFlight s)) s → (drawAt s k).rst = false) ∧
    cycles (delayCycles (descriptor (inFlight s)) s + 1) s = .next t ∧ (draw t).rst = false ∧
    writeData .cmd t = some (encode .startPeriodic) ∧ ∃ u, step t = .next u ∧ (draw u).rst = false := by
  refine ⟨inPhase .wait .getDataReady 0 [errorDraw 0x01#8, quiet, cmdWriteDraw 0x21B1#16, quiet],
    { inPhase .idle .getDataReady 0 [cmdWriteDraw 0x21B1#16, quiet] with done := true, err := .busError, cause := 0x01#8, cycle := 2 },
    rfl, rfl, fun k hk => ?_, rfl, rfl, by decide, _, rfl, rfl⟩
  have h : k ≤ 1 := hk
  interval_cases k <;> rfl

theorem witness_UnansweredTransactionHangs : ∃ s, s.phase = .wait ∧
    ∀ k, k < 2 → (drawAt s k).rst = false ∧ (drawAt s k).tRspValid = false :=
  ⟨inPhase .wait .reinit 0 [quiet, cmdWriteDraw 0x21B1#16], by decide⟩

theorem witness_EveryCycleKeepsTheInvariant : ∃ s t, StateInv s ∧ step s = .next t ∧ t.phase = .delay :=
  ⟨inPhase .wait .reinit 0 [replyDraw []], { inPhase .delay .reinit 30 [] with cycle := 1 },
   inv_inPhase .wait (.inr rfl) .reinit _, rfl, rfl⟩

theorem witness_HostReadStoresTheRegister : ∃ s h, grantedHost s = some (0, h) ∧ nextStmt 0 h = some (.rd .status 3) ∧
    (atAccess 0 h).pc = 2 :=
  ⟨{ inPhase .wait .reinit 0 [grantDraw 0] with
      hosts := [{ prog := [.bne 0 0x0003#16 0x0002#16 2, .rd .cmd 0, .rd .status 3], vars := [(0, 0x0041#16)] }] },
   { prog := [.bne 0 0x0003#16 0x0002#16 2, .rd .cmd 0, .rd .status 3], vars := [(0, 0x0041#16)] }, by decide⟩

theorem witness_HostWriteFinishesWhenPerformed :
    (∃ s h w, grantedHost s = some (0, h) ∧ nextStmt 0 h = some (.wr .cmd w) ∧ (draw s).rst = false ∧ s.phase = .idle) ∧
    (∃ s h w, grantedHost s = some (0, h) ∧ nextStmt 0 h = some (.wr .crcIn w) ∧ (draw s).rst = false ∧ s.phase ≠ .idle) ∧
    ∃ s h w, grantedHost s = some (0, h) ∧ nextStmt 0 h = some (.wr .cmd w) ∧ (draw s).rst = false ∧ s.phase ≠ .idle :=
  ⟨⟨{ idleWith [grantDraw 0] with hosts := [hostAt (.wr .cmd 0x21B1#16)] }, hostAt (.wr .cmd 0x21B1#16), 0x21B1#16, by decide⟩,
   ⟨{ inPhase .req .reinit 0 [grantDraw 0] with hosts := [hostAt (.wr .crcIn 0xBEEF#16)] }, hostAt (.wr .crcIn 0xBEEF#16),
    0xBEEF#16, by decide⟩,
   ⟨{ inPhase .delay .reinit 1 [grantDraw 0] with hosts := [hostAt (.wr .cmd 0x21B1#16)] }, hostAt (.wr .cmd 0x21B1#16),
    0x21B1#16, by decide⟩⟩

theorem witness_UngrantedHostDoesNotMove : ∃ s h, (draw s).grant ≠ .loaded 0 ∧ s.hosts[0]? = some h ∧
    grantedHost s = some (1, hostAt (.rd .status 0)) :=
  ⟨{ idleWith [grantDraw 1] with hosts := [hostAt (.wr .cmd 0x21B1#16), hostAt (.rd .status 0)] },
   hostAt (.wr .cmd 0x21B1#16), by decide⟩

/-- NUM_HOSTS = 2: host 1 is the last, held or not; host 2 is none, granted as held or not. -/
theorem witness_PortServesOnlyTheHosts :
    (∃ s h a, (draw s).grant = .loaded 1 ∧ s.hosts[1]? = some h ∧ hostAccess 1 h = some a ∧ portAccess s = some a) ∧
    (∃ s a, (draw s).grant = .other 1 a ∧ s.hosts[1]? = none ∧ portAccess s = some a) ∧
    (∃ s, s.config.numHosts ≤ 2 ∧ (draw s).grant = .loaded 2) ∧
    ∃ s a, s.config.numHosts ≤ 2 ∧ (draw s).grant = .other 2 a :=
  ⟨⟨{ idleWith [grantDraw 1] with hosts := [hostAt (.wr .cmd 0x21B1#16), hostAt (.rd .status 0)] }, hostAt (.rd .status 0),
    readAccess .status, by decide⟩,
   ⟨idleWith [{ quiet with grant := .other 1 (readAccess .cmd) }], readAccess .cmd, by decide⟩,
   ⟨idleWith [grantDraw 2], by decide⟩, ⟨idleWith [{ quiet with grant := .other 2 (readAccess .cmd) }], readAccess .cmd, by decide⟩⟩

/-- R10 and R236 with NUM_HOSTS = 2 and both hosts held: neither a third agent nor one under a held host's number gets in. -/
theorem test_no_further_agent : ∀ k ∈ [0, 1, 2], portAccess
    { idleWith [{ quiet with grant := .other k (writeAccess .cmd 0x21B1#16) }] with
      hosts := [hostAt (.rd .status 0), hostAt (.rd .status 0)] } = none := by decide

/-- A branch that is taken and one that is not. -/
theorem witness_BranchFollowsItsCondition : ∀ y ∈ [0x0012#16, 0x0041#16], ∃ h : HostAgent,
    h.prog[h.pc]? = some (.bne 0 0x0003#16 0x0002#16 7) ∧ lookupVar h.vars 0 = some y := fun y _ =>
  ⟨{ hostAt (.bne 0 0x0003#16 0x0002#16 7) with vars := [(0, y)] }, rfl, rfl⟩

/-- A host that reaches an access, and one at an endless branch. -/
theorem witness_BranchBoundIsEnough :
    (∃ h : HostAgent, h.prog.length ≤ 1 ∧ nextStmt 0 h = some (.rd .status 0)) ∧
    ∃ h : HostAgent, h.prog.length ≤ 1 ∧ h.prog[h.pc]? = some (.bne 0 0x0000#16 0x0001#16 0) :=
  ⟨⟨hostAt (.rd .status 0), by decide⟩, ⟨hostAt (.bne 0 0x0000#16 0x0001#16 0), by decide⟩⟩

theorem witness_ConversionsFollowTheFormulas : LibOp.getTemperatureOffset ≠ .readMeasurement := by decide

theorem witness_DataReadyFlagIsTheLowElevenBits :
    0x8001#16 ≠ 0x0001#16 ∧ ∀ k, k < 11 → (0x8001#16).getLsbD k = (0x0001#16).getLsbD k := by decide

theorem witness_LibraryErrorIsTheStatusError : ∀ e, ∃ s : State, s.err = e := fun e =>
  ⟨{ idleWith [] with err := e }, rfl⟩

end Sys2Proof.Tests
end

section
/-! The surroundings of the block (00_scope.md R10, R18): what a cycle leaves of the parameters, the schedule, the cycle count and
the hosts. -/

namespace Sys2Proof.Proofs

open Sys2Proof.Machine Sys2Proof.Laws

/-- The granted host is the loaded host whose number the arbiter presents, and its number is a host's (60_exceptions.md R236). -/
theorem grantedHost_eq_some {s : State} {k : Nat} {h : HostAgent} :
    grantedHost s = some (k, h) ↔ (draw s).grant = .loaded k ∧ isHost s k = true ∧ s.hosts[k]? = some h := by
  unfold grantedHost
  cases (draw s).grant with
  | none => simp
  | other j a => simp
  | loaded j =>
    by_cases hj : isHost s j = true
    · simp only [hj, if_true, Option.map_eq_some_iff, Prod.mk.injEq, Grant.loaded.injEq]
      constructor
      · rintro ⟨_, hh, rfl, rfl⟩
        exact ⟨rfl, hj, hh⟩
      · rintro ⟨rfl, _, hh⟩
        exact ⟨h, hh, rfl, rfl⟩
    · simp only [hj, if_false, Grant.loaded.injEq, reduceCtorEq, Bool.false_eq_true, false_iff]
      rintro ⟨rfl, hk, _⟩
      exact hj hk

/-- What a granted cycle leaves of a host, a cycle leaves of every host in its place: only the granted host moves. -/
theorem map_hostsAfter {α : Type} (f : HostAgent → α)
    (hf : ∀ k performed rdata h, f (hostAfterAccess k performed rdata h) = f h) (s : State) :
    (hostsAfter s).map f = s.hosts.map f := by
  unfold hostsAfter
  split
  · rename_i k h hg
    obtain ⟨-, -, hk⟩ := grantedHost_eq_some.1 hg
    have hmap : (s.hosts.map f)[k]? = some (f h) := by simp [hk]
    obtain ⟨hlt, hget⟩ := List.getElem?_eq_some_iff.1 hmap
    rw [List.map_set, hf, ← hget, List.set_getElem_self]
  · rfl

/-- Settles O47: the next state is `advance s (afterCycle s)`, the block's cycle keeps the parameters, and the one host that
moves keeps its program, unit and bus handle. -/
theorem cycleFramesTheSurroundings : Obligations.CycleFramesTheSurroundings := fun s =>
  ⟨advance s (afterCycle s), step_eq s, afterCycle_config s, advance_env _ _, advance_cycle _ _,
    map_hostsAfter HostAgent.prog hostAfterAccess_prog s,
    map_hostsAfter HostAgent.fahrenheit hostAfterAccess_fahrenheit s,
    map_hostsAfter HostAgent.bus hostAfterAccess_bus s⟩

end Sys2Proof.Proofs
end

section
/-! The sequencer's state (10_state.md): the command in flight and its record, STATUS and CMD_OP, and the invariant of every
state after reset. -/

namespace Sys2Proof.Proofs

open Sys2Proof.Machine Sys2Proof.Laws

/-! ### The catalog -/

/-- The decoder undoes the encoder (30_encoding.md R100). -/
@[simp] theorem decodeWord_encode (i : Instr) : decodeWord (encode i) = some i := by
  cases i <;> rfl

/-- A response is of no word, of one or of three (30_encoding.md R92). -/
theorem words_cases (i : Instr) :
    (descriptor i).words = 0 ∨ (descriptor i).words = 1 ∨ (descriptor i).words = 3 := by
  cases i <;> decide

/-! ### The invariant of a step: what the block does beside the sequencer -/

/-- A write to the CRC port reaches no field of the invariant. -/
theorem stateInv_crcPort {t : State} (s : State) (ht : StateInv t) : StateInv (crcPort s t) := by
  unfold crcPort
  split
  · exact { ht with }
  · exact ht

/-- The agents going on reach no field of the invariant but the number of hosts, which stays. -/
theorem stateInv_advance_afterCycle {s : State} (hs : StateInv s) (ht : StateInv (afterCycle s)) :
    StateInv (advance s (afterCycle s)) :=
  { ht with hosts_le := by simpa using hs.hosts_le }

/-! ### The invariant of an idle cycle -/

/-- Reset gives the invariant to any block (70_reset_and_hazards.md R250, R251). -/
theorem stateInv_resetBlock {s : State} (hosts_le : s.hosts.length ≤ s.config.numHosts) : StateInv (resetBlock s) := by
  constructor <;> simp [hosts_le]

/-- A command just accepted has nothing recorded and its delay not begun (41_command_framer.md R142). -/
theorem stateInv_accept {s : State} (i : Instr) (hs : StateInv s) (hp : s.phase = .idle) : StateInv (accept i s) := by
  have hd : s.dcnt = 0 := hs.dcnt_zero (by simp [hp])
  constructor <;> simp [inFlight, hd, hs.hosts_le]

/-- A rejected opcode is complete at once, with ILLEGAL_CMD and no words (41_command_framer.md R143). -/
theorem stateInv_reject {s : State} {w : Word} (hs : StateInv s) (hp : s.phase = .idle) (hw : decodeWord w = none) :
    StateInv (reject w s) := by
  have hd : s.dcnt = 0 := hs.dcnt_zero (by simp [hp])
  constructor <;> simp [hp, hd, hw, hs.hosts_le]

/-! ### The invariant of a command in flight -/

/-- What the invariant says of the record of a command in flight, whatever the phase and the count of its delay. -/
structure InFlightRecord (s : State) : Prop where
  command : s.cmdOp = encode (inFlight s)
  not_illegal : s.err ≠ .illegalCmd
  nwords_legal : s.nwords = 0#2 ∨ s.nwords = 1#2 ∨ s.nwords = 3#2
  resp0_zero : s.nwords = 0#2 → s.resp0 = 0#16
  resp12_zero : s.nwords ≠ 3#2 → s.resp1 = 0#16 ∧ s.resp2 = 0#16
  err_no_words : s.err ≠ .none → s.nwords = 0#2
  cause_zero : s.err ≠ .busError → s.cause = 0#8
  crc_reads : s.err = .crcMismatch → 0 < (descriptor (inFlight s)).words
  words_match : s.nwords ≠ 0#2 → s.nwords = BitVec.ofNat 2 (descriptor (inFlight s)).words
  hosts_le : s.hosts.length ≤ s.config.numHosts

/-- In flight, no command is complete. -/
theorem done_eq_false_of_busy {s : State} (hs : StateInv s) (hp : s.phase ≠ .idle) : s.done = false := by
  simpa using mt hs.done_idle hp

/-- The invariant gives the record of the command in flight. -/
theorem inFlightRecord_of_busy {s : State} (hs : StateInv s) (hp : s.phase ≠ .idle) : InFlightRecord s :=
  have hop : decodeWord s.cmdOp = some (inFlight s) := by rw [hs.in_flight hp, decodeWord_encode]
  { hs with
    command := hs.in_flight hp
    not_illegal := fun he => hp (hs.illegal_idle he).1
    crc_reads := fun he => by simpa [hop] using hs.crc_reads he
    words_match := fun hn => by simpa [hop] using hs.words_match hn }

/-- With a legal record, a delay of the command's own length or less can go on (41_command_framer.md R148, R149). -/
theorem stateInv_delaying {s : State} {n : Nat} (hr : InFlightRecord s) (hd : s.done = false) (hpos : 1 ≤ n)
    (hle : n ≤ delayCycles (descriptor (inFlight s)) s) : StateInv { s with dcnt := n, phase := .delay } :=
  have hop : decodeWord s.cmdOp = some (inFlight s) := by rw [hr.command, decodeWord_encode]
  { hr with
    dcnt_zero := fun hp => absurd rfl hp
    dcnt_pos := fun _ => hpos
    dcnt_le := fun _ => hle
    done_idle := fun h => by simp [hd] at h
    in_flight := fun _ => hr.command
    quiet := fun hp => by simp at hp
    illegal_idle := fun he => absurd he hr.not_illegal
    crc_reads := fun he => ⟨_, hop, hr.crc_reads he⟩
    words_match := fun hn => ⟨_, hop, hr.words_match hn⟩
    fresh := fun hp => by simp at hp }

/-- With a legal record and no delay left, the command can complete (41_command_framer.md R150). -/
theorem stateInv_complete {s : State} (hr : InFlightRecord s) (hd : s.dcnt = 0) : StateInv (complete s) :=
  have hop : decodeWord s.cmdOp = some (inFlight s) := by rw [hr.command, decodeWord_encode]
  { hr with
    dcnt_zero := fun _ => hd
    dcnt_pos := fun hp => by simp at hp
    dcnt_le := fun hp => by simp at hp
    done_idle := fun _ => rfl
    in_flight := fun hp => absurd rfl hp
    quiet := fun hp => by simp at hp
    illegal_idle := fun he => absurd he hr.not_illegal
    crc_reads := fun he => ⟨_, hop, hr.crc_reads he⟩
    words_match := fun hn => ⟨_, hop, hr.words_match hn⟩
    fresh := fun _ h => by simp at h }

/-- The verified words of the command in flight, recorded over an empty record, make a legal one
(41_command_framer.md R147). -/
theorem inFlightRecord_recordWords {s : State} (hr : InFlightRecord s) (herr : s.err = .none) (hn : s.nwords = 0#2)
    (hw : (descriptor (inFlight s)).words ≠ 0) (data : BitVec 72) :
    InFlightRecord (recordWords (descriptor (inFlight s)).words data s) := by
  have hresp := hr.resp12_zero (by simp [hn])
  have hw13 := (words_cases (inFlight s)).resolve_left hw
  exact { hr with
    not_illegal := by simp [recordWords]
    nwords_legal := by rcases hw13 with h | h <;> simp [recordWords, h]
    resp0_zero := by rcases hw13 with h | h <;> simp [recordWords, h]
    resp12_zero := by rcases hw13 with h | h <;> simp [recordWords, h, hresp]
    err_no_words := fun he => absurd rfl he
    cause_zero := fun _ => hr.cause_zero (by simp [herr])
    crc_reads := fun he => by simp [recordWords] at he
    words_match := fun _ => rfl }

/-- A response to the command in flight, recorded over an empty record, makes a legal one, whatever its outcome
(41_command_framer.md R146, R147). -/
theorem inFlightRecord_recordOutcome {s : State} (hr : InFlightRecord s) (herr : s.err = .none) (hn : s.nwords = 0#2)
    (ok : Bool) (data : BitVec 72) (cause : Byte) :
    InFlightRecord (recordOutcome (descriptor (inFlight s)) ok data cause s) := by
  rcases recordOutcome_cases (descriptor (inFlight s)) ok data cause s with
    ⟨_, h⟩ | ⟨_, _, h⟩ | ⟨_, hw, _, h⟩ | ⟨_, hw, _, h⟩ <;> rw [h]
  · exact { hr with
      not_illegal := by simp
      err_no_words := fun _ => hn
      cause_zero := fun he => absurd rfl he
      crc_reads := fun he => by simp at he }
  · exact { hr with
      not_illegal := by simp
      err_no_words := fun _ => hn
      cause_zero := fun _ => hr.cause_zero (by simp [herr])
      crc_reads := fun he => by simp at he }
  · exact inFlightRecord_recordWords hr herr hn hw data
  · exact { hr with
      not_illegal := by simp
      err_no_words := fun _ => hn
      cause_zero := fun _ => hr.cause_zero (by simp [herr])
      crc_reads := fun _ => Nat.pos_of_ne_zero hw }

/-- The transaction of a command in flight ends in its delay or complete, with a legal record either way
(41_command_framer.md R148). -/
theorem stateInv_endTransaction {s : State} (hr : InFlightRecord s) (hdone : s.done = false) (hd : s.dcnt = 0) :
    StateInv (endTransaction (descriptor (inFlight s)) s) := by
  rcases endTransaction_cases (descriptor (inFlight s)) s with ⟨hpos, h⟩ | ⟨_, h⟩ <;> rw [h]
  · exact stateInv_delaying hr hdone hpos le_rfl
  · exact stateInv_complete hr hd

/-- A cycle of WAIT keeps the invariant, with a response or without. -/
theorem stateInv_responseCycle {s : State} (hs : StateInv s) (hp : s.phase = .wait) :
    StateInv (responseCycle (descriptor (inFlight s)) s) := by
  have hbusy : s.phase ≠ .idle := by simp [hp]
  have hdone : s.done = false := done_eq_false_of_busy hs hbusy
  have hd : s.dcnt = 0 := hs.dcnt_zero (by simp [hp])
  obtain ⟨herr, hn⟩ := hs.quiet (.inr hp)
  unfold responseCycle
  split
  · have hr := inFlightRecord_recordOutcome (inFlightRecord_of_busy hs hbusy) herr hn (draw s).tRspOk
      (draw s).tRspData (draw s).tRspCause
    obtain ⟨e, n, r0, r1, r2, c, h⟩ := recordOutcome_frame (descriptor (inFlight s)) (draw s).tRspOk
      (draw s).tRspData (draw s).tRspCause s
    rw [h] at hr ⊢
    exact stateInv_endTransaction hr hdone hd
  · exact hs

/-- A cycle of DELAY keeps the invariant: DCNT is at least 1, so it counts down and never wraps (41_command_framer.md
R149). -/
theorem stateInv_delayCycle {s : State} (hs : StateInv s) (hp : s.phase = .delay) : StateInv (delayCycle s) := by
  have hbusy : s.phase ≠ .idle := by simp [hp]
  have hr := inFlightRecord_of_busy hs hbusy
  have hpos := hs.dcnt_pos hp
  have hle := hs.dcnt_le hp
  unfold delayCycle
  split
  · exact stateInv_complete (s := { s with dcnt := 0 }) { hr with } rfl
  · have hdec : decrement s = s.dcnt - 1 := if_neg (by omega)
    have h := stateInv_delaying (n := s.dcnt - 1) hr (done_eq_false_of_busy hs hbusy) (by omega) (by omega)
    rwa [← hp, ← hdec] at h

/-- A cycle of the command in flight keeps the invariant, in every phase. -/
theorem stateInv_commandCycle {s : State} (hs : StateInv s) (hbusy : s.phase ≠ .idle) :
    StateInv (commandCycle (inFlight s) s) := by
  cases hp : s.phase with
  | idle => exact absurd hp hbusy
  | req =>
    rw [commandCycle_req hp]
    split
    · exact { hs with
        dcnt_zero := fun _ => hs.dcnt_zero (by simp [hp])
        dcnt_pos := fun h => by simp at h
        dcnt_le := fun h => by simp at h
        done_idle := fun h => absurd (hs.done_idle h) hbusy
        in_flight := fun _ => hs.in_flight hbusy
        quiet := fun _ => hs.quiet (.inl hp)
        illegal_idle := fun h => absurd (hs.illegal_idle h).1 hbusy
        fresh := fun h => by simp at h }
    · exact hs
  | wait =>
    rw [commandCycle_wait hp]
    exact stateInv_responseCycle hs hp
  | delay =>
    rw [commandCycle_delay hp]
    exact stateInv_delayCycle hs hp

/-! ### The invariant of every cycle -/

/-- The block's part of a cycle keeps the invariant: reset, acceptance, rejection, an idle cycle, a command in flight. -/
theorem stateInv_afterCycle {s : State} (hs : StateInv s) : StateInv (afterCycle s) := by
  rcases afterCycle_cases s with
    ⟨_, h⟩ | ⟨_, hp, i, _, h⟩ | ⟨_, hp, _, _, hw, h⟩ | ⟨_, _, _, h⟩ | ⟨_, hbusy, h⟩ <;> rw [h]
  · exact stateInv_resetBlock hs.hosts_le
  · exact stateInv_accept i hs hp
  · exact stateInv_reject hs hp hw
  · exact stateInv_crcPort s hs
  · exact stateInv_crcPort s (stateInv_commandCycle hs hbusy)

/-- Settles O46: each thing a cycle can do keeps the invariant, and then the agents go on. -/
theorem everyCycleKeepsTheInvariant : Obligations.EveryCycleKeepsTheInvariant := by
  intro s t hs hstep
  rw [step_eq] at hstep
  cases hstep
  exact stateInv_advance_afterCycle hs (stateInv_afterCycle hs)

/-- Settles O45: the reset state is a block just reset, with no host. -/
theorem invariantHoldsAtReset : Obligations.InvariantHoldsAtReset :=
  stateInv_resetBlock (s := State.reset) (Nat.zero_le _)

/-! ### CMD_OP and CMD_IDX -/

/-- A command in flight writes neither CMD_OP nor CMD_IDX (10_state.md R28, R29). -/
theorem commandCycle_busy_command (i : Instr) {s : State} (hbusy : s.phase ≠ .idle) :
    (commandCycle i s).cmdOp = s.cmdOp ∧ (commandCycle i s).cmdIdx = s.cmdIdx := by
  cases hp : s.phase with
  | idle => exact absurd hp hbusy
  | req => rw [commandCycle_req hp]; split <;> simp
  | wait =>
    rw [commandCycle_wait hp]
    unfold responseCycle
    split
    · obtain ⟨e, n, r0, r1, r2, c, h⟩ := recordOutcome_frame (descriptor i) (draw s).tRspOk (draw s).tRspData
        (draw s).tRspCause s
      rw [h, endTransaction]
      split <;> simp
    · simp
  | delay =>
    rw [commandCycle_delay hp, delayCycle]
    split <;> simp

/-- Settles O29: acceptance and rejection write the word presented, and the other cycles write neither register. -/
theorem cmdOpIsTheLastPerformedWrite : Obligations.CmdOpIsTheLastPerformedWrite := by
  intro s hrst
  refine ⟨_, step_eq s, ?_⟩
  rcases afterCycle_cases s with
    ⟨hr, _⟩ | ⟨_, hp, i, hw, h⟩ | ⟨_, hp, v, hw, _, h⟩ | ⟨_, hp, hw, h⟩ | ⟨_, hbusy, h⟩
  · simp [hrst] at hr
  · simp [h, hp, hw]
  · simp [h, hp, hw]
  · simp [h, hw]
  · simp [h, hbusy, commandCycle_busy_command _ hbusy]

/-! ### A cycle without its host access -/

@[simp] theorem draw_withGrant (g : Grant) (s : State) : draw (withGrant g s) = { draw s with grant := g } := rfl
@[simp] theorem withGrant_phase (g : Grant) (s : State) : (withGrant g s).phase = s.phase := rfl
@[simp] theorem inFlight_withGrant (g : Grant) (s : State) : inFlight (withGrant g s) = inFlight s := rfl
@[simp] theorem blockOf_withGrant (g : Grant) (s : State) : blockOf (withGrant g s) = blockOf s := rfl
@[simp] theorem blockOf_advance (s t : State) : blockOf (advance s t) = blockOf t := rfl

/-- In a cycle without a grant no register is written. -/
@[simp] theorem writeData_withGrant_none (r : Reg) (s : State) : writeData r (withGrant .none s) = none := rfl

/-- The end of a transaction does not see the grant. -/
theorem endTransaction_withGrant (d : Descriptor) (g : Grant) (s : State) :
    endTransaction d (withGrant g s) = withGrant g (endTransaction d s) := by
  unfold endTransaction
  rw [apply_ite (withGrant g)]
  rfl

/-- The recording of a response does not see the grant. -/
theorem recordOutcome_withGrant (d : Descriptor) (ok : Bool) (data : BitVec 72) (cause : Byte) (g : Grant) (s : State) :
    recordOutcome d ok data cause (withGrant g s) = withGrant g (recordOutcome d ok data cause s) := by
  unfold recordOutcome recordSuccess
  split_ifs <;> rfl

/-- A command's cycle does not see the grant. -/
theorem commandCycle_withGrant (i : Instr) (g : Grant) (s : State) :
    commandCycle i (withGrant g s) = withGrant g (commandCycle i s) := by
  cases hp : s.phase with
  | idle => rw [commandCycle_idle hp, commandCycle_idle (by simpa using hp)]; rfl
  | req => rw [commandCycle_req hp, commandCycle_req (by simpa using hp), draw_withGrant]; split <;> rfl
  | wait =>
    rw [commandCycle_wait hp, commandCycle_wait (by simpa using hp)]
    simp only [responseCycle, draw_withGrant, recordOutcome_withGrant, endTransaction_withGrant]
    split <;> rfl
  | delay =>
    rw [commandCycle_delay hp, commandCycle_delay (by simpa using hp)]
    unfold delayCycle
    rw [apply_ite (withGrant g)]
    rfl

/-- A cycle in which no write reaches CMD or CRC_IN is the cycle without its host access: no other access changes the
block, and a CMD write to a busy block is held. -/
theorem afterCycle_withGrant_none {s : State} (hcmd : s.phase = .idle → writeData .cmd s = none)
    (hcrc : writeData .crcIn s = none) : afterCycle (withGrant .none s) = withGrant .none (afterCycle s) := by
  have hport (t : State) : crcPort s t = t := by simp [crcPort, hcrc]
  have hport' (t : State) : crcPort (withGrant .none s) t = t := by simp [crcPort]
  by_cases hr : (draw s).rst = true
  · simp only [afterCycle, draw_withGrant, hr, if_true]; rfl
  · by_cases hp : s.phase = .idle
    · simp [afterCycle, hr, fetch_idle_none hp (hcmd hp), fetch_idle_none (s := withGrant .none s) hp rfl, hport, hport']
    · simp [afterCycle, hr, fetch_busy hp, fetch_busy (s := withGrant .none s) hp, hport, hport', commandCycle_withGrant]

/-- In a cycle in which no write reaches CMD or CRC_IN the host access leaves the block as the cycle would without it. -/
theorem step_blockOf_withGrant_none {s : State} (hcmd : s.phase = .idle → writeData .cmd s = none)
    (hcrc : writeData .crcIn s = none) :
    ∃ t u, step s = .next t ∧ step (withGrant .none s) = .next u ∧ blockOf t = blockOf u :=
  ⟨_, _, step_eq s, step_eq _, by simp [afterCycle_withGrant_none hcmd hcrc]⟩

/-- The access of a cycle writes no register but the one its index selects. -/
theorem writeData_eq_none {s : State} {a : Access} {r : Reg} (ha : portAccess s = some a) (hr : a.addr ≠ regIndex r) :
    writeData r s = none := by
  simp [writeData, ha, hr]

/-! ### STATUS -/

/-- STATUS holds each flag in its place (10_state.md R32). -/
theorem status_fields (s : State) :
    (readReg .status s).extractLsb' 0 1 = BitVec.ofBool (s.phase != .idle) ∧
    (readReg .status s).extractLsb' 1 1 = BitVec.ofBool s.done ∧
    (readReg .status s).extractLsb' 2 2 = errBits s.err ∧
    (readReg .status s).extractLsb' 4 2 = s.nwords ∧
    (readReg .status s).extractLsb' 6 2 = phaseCode s.phase ∧
    (readReg .status s).extractLsb' 8 8 = 0x00#8 := by
  unfold readReg statusWord
  refine ⟨?_, ?_, ?_, ?_, ?_, ?_⟩ <;> (repeat rw [BitVec.extractLsb'_append_eq_of_le (by decide)])
  iterate 5 exact BitVec.extractLsb'_append_eq_right
  rfl

/-- Settles O12: the fields one by one, NWORDS by the invariant, and a write to index 1 reaches neither CMD nor CRC_IN. -/
theorem statusFieldsAreTheFlags : Obligations.StatusFieldsAreTheFlags := by
  refine ⟨status_fields, by decide, fun s hs => ?_, fun s a ha _ haddr => ?_⟩
  · obtain ⟨-, -, -, hn, -, -⟩ := status_fields s
    rw [hn]
    rcases hs.nwords_legal with h | h | h <;> rw [h] <;> decide
  · exact step_blockOf_withGrant_none (fun _ => writeData_eq_none ha (by simp [haddr, regIndex]))
      (writeData_eq_none ha (by simp [haddr, regIndex]))

end Sys2Proof.Proofs
end

section
/-! The byte streams of the bus (20_memory.md R60): the decoder reads a word's two bus bytes and nothing else. -/

namespace Sys2Proof.Proofs

open Sys2Proof.Machine Sys2Proof.Laws

/-- The decoder answers a command for its own word only (30_encoding.md R100). -/
theorem decodeWord_eq_some {w : Word} {i : Instr} : decodeWord w = some i ↔ w = encode i :=
  ⟨fun h => (opcode_of_decodeWord h).symm, fun h => by rw [h, decodeWord_encode]⟩

/-- The byte decoder reads the bus bytes of a word and answers what the word decodes to (30_encoding.md R90). -/
theorem decodeBytes_busBytes_append (w : Word) (rest : List Byte) :
    decodeBytes (busBytes w ++ rest) =
      (decodeWord w).elim (.error (.illegalOpcode w)) fun i => .ok (i, rest) := by
  have hw : hiByte w ++ loByte w = w := wordOf_bytes w
  simp only [busBytes_eq, List.cons_append, List.nil_append, decodeBytes, hw]
  cases decodeWord w <;> rfl

/-- Any stream is too short for a command or begins with the bus bytes of a word (30_encoding.md R104). -/
theorem decodeBytes_truncated_or_busBytes (bs : List Byte) :
    decodeBytes bs = .error .truncated ∨ ∃ w rest, bs = busBytes w ++ rest := by
  match bs with
  | [] | [_] => exact .inl rfl
  | b0 :: b1 :: rest => exact .inr ⟨wordOf b0 b1, rest, by simp⟩

/-- Settles O11: what is decoded begins with the bus bytes of a word, that word decodes to the command, and only the
command's own word does. -/
theorem bytesDecodeIffEncoded : Obligations.BytesDecodeIffEncoded := by
  refine fun bs i rest => ⟨fun h => ?_, fun h => ?_⟩
  · rcases decodeBytes_truncated_or_busBytes bs with ht | ⟨w, tail, rfl⟩
    · simp [ht] at h
    · rw [decodeBytes_busBytes_append] at h
      cases hd : decodeWord w with
      | none => simp [hd] at h
      | some j =>
        obtain ⟨rfl, rfl⟩ : j = i ∧ tail = rest := by simpa [hd] using h
        rw [decodeWord_eq_some.1 hd, encodeBytes]
  · rw [h, encodeBytes, decodeBytes_busBytes_append, decodeWord_encode]
    rfl

end Sys2Proof.Proofs
end

section
/-! The catalog's words (30_encoding.md R95, R100): the decoder and the table's index are inverse to the catalog's rows. -/

namespace Sys2Proof.Proofs

open Sys2Proof.Machine Sys2Proof.Laws

/-- The row at an index has that index: the table has eight rows for the eight values of CMD_IDX (30_encoding.md R95). -/
@[simp] theorem catalogIndex_catalogAt (idx : BitVec 3) : catalogIndex (catalogAt idx) = idx := by
  revert idx
  decide

/-- A word decodes to nothing iff no index has it as its opcode (30_encoding.md R101). -/
theorem decodeWord_eq_none_iff_index {w : Word} :
    decodeWord w = none ↔ ∀ idx : BitVec 3, encode (catalogAt idx) ≠ w := by
  have rows_have_indices : Function.Surjective catalogAt := Function.RightInverse.surjective catalogAt_catalogIndex
  rw [decodeWord_eq_none, rows_have_indices.forall]

/-- Settles O10: the decoder answers the row whose own word it is given, and index and row determine each other. -/
theorem decodeMatchesExactlyTheOpcode : Obligations.DecodeMatchesExactlyTheOpcode :=
  ⟨fun _ _ => decodeWord_eq_some, fun _ => decodeWord_eq_none_iff_index, catalogAt_catalogIndex, catalogIndex_catalogAt⟩

/-- The words of any rows decode to those rows. -/
theorem map_decodeWord_encode (rows : List Instr) : (rows.map encode).map decodeWord = rows.map some := by
  simp

/-- Settles O9: the eight words are the encodings of the catalog's rows, the columns are read off the table, and no row has
one of the three other words. -/
theorem catalogWordsDecode : Obligations.CatalogWordsDecode :=
  ⟨map_decodeWord_encode catalog, rfl, rfl, rfl, rfl, rfl, rfl⟩

end Sys2Proof.Proofs
end

section
/-! The hosts at the port (30_encoding.md R111, R112; 41_command_framer.md R141, R154): the access of the granted host, and
what the cycle makes of that host. -/

namespace Sys2Proof.Proofs

open Sys2Proof.Machine Sys2Proof.Laws

/-! ### The access a host presents -/

theorem hostAccess_rd {k : Nat} {h : HostAgent} {r : Reg} {v : Var} (hn : nextStmt k h = some (.rd r v)) :
    hostAccess k h = some (readAccess r) := by
  simp [hostAccess, hn]

theorem hostAccess_wr {k : Nat} {h : HostAgent} {r : Reg} {w : Word} (hn : nextStmt k h = some (.wr r w)) :
    hostAccess k h = some (writeAccess r w) := by
  simp [hostAccess, hn]

/-- The port carries the access of the granted host (60_exceptions.md R236). -/
theorem portAccess_of_granted {s : State} {k : Nat} {h : HostAgent} (hg : grantedHost s = some (k, h)) :
    portAccess s = hostAccess k h := by
  obtain ⟨hgrant, -, -⟩ := grantedHost_eq_some.1 hg
  simp [portAccess, hgrant, hg]

/-! ### What the port answers -/

/-- A read is given the register's value (41_command_framer.md R154). -/
theorem hRdata_of_read {s : State} {r : Reg} (ha : portAccess s = some (readAccess r)) :
    hRdata s = some (readReg r s) := by
  simp [hRdata, ha, readAccess]

/-- A read never waits (41_command_framer.md R154). -/
theorem hWait_of_read {s : State} {r : Reg} (ha : portAccess s = some (readAccess r)) : hWait s = false := by
  simp [hWait, writeData, ha, readAccess]

/-- A write in a cycle without reset is performed unless it is a CMD write to a busy block (41_command_framer.md R141). -/
theorem writePerformed_iff {s : State} {r : Reg} {w : Word} (ha : portAccess s = some (writeAccess r w))
    (hrst : (draw s).rst = false) : writePerformed s = true ↔ r ≠ .cmd ∨ s.phase = .idle := by
  by_cases hr : r = .cmd
  · simp [writePerformed, hWait, writeData, ha, writeAccess, hrst, hr, busy]
  · simp [writePerformed, hWait, writeData, ha, writeAccess, hr, hrst]

/-! ### The host after its access -/

theorem hostAfterAccess_rd {k : Nat} {h : HostAgent} {r : Reg} {v : Var} (performed : Bool) (rdata : Word)
    (hn : nextStmt k h = some (.rd r v)) : hostAfterAccess k performed rdata h =
      { atAccess k h with pc := (atAccess k h).pc + 1, vars := setVar h.vars v rdata } := by
  simp [hostAfterAccess, hn]

theorem hostAfterAccess_wr {k : Nat} {h : HostAgent} {r : Reg} {w : Word} (performed : Bool) (rdata : Word)
    (hn : nextStmt k h = some (.wr r w)) : hostAfterAccess k performed rdata h =
      if performed then { atAccess k h with pc := (atAccess k h).pc + 1 } else atAccess k h := by
  simp [hostAfterAccess, hn]

/-- A host at its next access runs no further branch. -/
theorem nextStmt_atAccess {k : Nat} {h : HostAgent} (hb : ∀ v m x l, nextStmt k h ≠ some (.bne v m x l)) :
    nextStmt k (atAccess k h) = nextStmt k h := by
  have hstay : atAccess k (atAccess k h) = atAccess k h := runBranches_at_access k _ _ hb
  rw [nextStmt, hstay, nextStmt]

theorem hostsAfter_of_granted {s : State} {k : Nat} {h : HostAgent} (hg : grantedHost s = some (k, h)) :
    hostsAfter s = s.hosts.set k (hostAfterAccess k (writePerformed s) ((hRdata s).getD 0#16) h) := by
  simp only [hostsAfter, hg]

/-- A cycle moves the granted host by its access, and no other host (60_exceptions.md R236). -/
theorem step_hosts_of_granted {s : State} {k : Nat} {h : HostAgent} (hg : grantedHost s = some (k, h)) :
    ∃ t, step s = .next t ∧
      t.hosts[k]? = some (hostAfterAccess k (writePerformed s) ((hRdata s).getD 0#16) h) ∧
      ∀ j, j ≠ k → t.hosts[j]? = s.hosts[j]? := by
  obtain ⟨-, -, hk⟩ := grantedHost_eq_some.1 hg
  obtain ⟨hlt, -⟩ := List.getElem?_eq_some_iff.1 hk
  refine ⟨_, step_eq s, ?_, fun j hj => ?_⟩
  · rw [advance_hosts, hostsAfter_of_granted hg, List.getElem?_set_self hlt]
  · rw [advance_hosts, hostsAfter_of_granted hg, List.getElem?_set_ne hj.symm]

/-- Settles O48: the port answers the register's value without a wait, and the granted host stores it and goes on. -/
theorem hostReadStoresTheRegister : Obligations.HostReadStoresTheRegister := by
  intro s k h r v hg hn
  have ha : portAccess s = some (readAccess r) := (portAccess_of_granted hg).trans (hostAccess_rd hn)
  have hread := hRdata_of_read ha
  obtain ⟨t, hstep, hk, hothers⟩ := step_hosts_of_granted hg
  rw [hostAfterAccess_rd _ _ hn, hread, Option.getD_some] at hk
  exact ⟨hread, hWait_of_read ha, t, _, hstep, hk, lookupVar_setVar_self _ _ _,
    fun u hu => lookupVar_setVar_ne _ _ hu, rfl, hothers⟩

/-- Settles O49: the granted host goes on if the block performs its write, and stays at it otherwise. -/
theorem hostWriteFinishesWhenPerformed : Obligations.HostWriteFinishesWhenPerformed := by
  intro s k h r w hg hn hrst
  have ha : portAccess s = some (writeAccess r w) := (portAccess_of_granted hg).trans (hostAccess_wr hn)
  have hperformed := writePerformed_iff ha hrst
  obtain ⟨t, hstep, hk, hothers⟩ := step_hosts_of_granted hg
  rw [hostAfterAccess_wr _ _ hn] at hk
  refine ⟨ha, t, _, hstep, hk, ?_, hothers, fun hgo => ?_, fun hr hbusy => ?_⟩
  · split <;> simp
  · rw [if_pos (hperformed.2 hgo)]
  · have hheld : ¬ writePerformed s = true := by simp [hperformed, hr, hbusy]
    rw [if_neg hheld, nextStmt_atAccess (by simp [hn]), hn]

end Sys2Proof.Proofs
end

section
/-! The branches of a host program (30_encoding.md R110): one branch, a run of branches, and the bound on those that lead to an
access (95_test_vectors.md, conventions). -/

namespace Sys2Proof.Proofs

open Sys2Proof.Machine Sys2Proof.Laws

/-- The host's next statement, no branch run yet, is a branch. -/
def AtBranch (h : HostAgent) : Prop := ∃ v m x l, h.prog[h.pc]? = some (.bne v m x l)

/-- A branch is run from the value its variable holds. -/
theorem runBranches_succ_of_bne {k n : Nat} {h : HostAgent} {v : Var} {m x : Word} {l : Nat}
    (hb : h.prog[h.pc]? = some (.bne v m x l)) : runBranches k (n + 1) h =
      runBranches k n { h with pc := if branchTaken (varValue k h.vars v) m x then l else h.pc + 1 } := by
  simp only [runBranches, hb]

/-- A variable holds the value last written to it. -/
theorem varValue_of_lookupVar {k : Nat} {vars : List (Var × Word)} {v : Var} {y : Word}
    (hy : lookupVar vars v = some y) : varValue k vars v = y := by
  simp [varValue, hy]

theorem branchTaken_iff {y mask val : Word} : branchTaken y mask val = true ↔ y &&& mask ≠ val := bne_iff_ne

/-- Settles O51: a branch goes by the value of its variable, and no value masked by 0 is 1. -/
theorem branchFollowsItsCondition : Obligations.BranchFollowsItsCondition := by
  refine ⟨fun k n h v m x l y hb hy => ?_, fun y => branchTaken_iff.2 (by simp)⟩
  rw [runBranches_succ_of_bne hb, varValue_of_lookupVar hy]
  simp only [branchTaken_iff]

/-- A host that stands at no branch stays where it is. -/
theorem runBranches_of_not_atBranch {k n : Nat} {h : HostAgent} (hb : ¬ AtBranch h) : runBranches k n h = h :=
  runBranches_at_access k n h fun v m x l hbne => hb ⟨v, m, x, l, hbne⟩

/-- A run of branches goes on from where its first part ends. -/
theorem runBranches_add (k m n : Nat) (h : HostAgent) :
    runBranches k (m + n) h = runBranches k n (runBranches k m h) := by
  induction m generalizing h with
  | zero => rw [Nat.zero_add, runBranches]
  | succ m ih =>
    by_cases hb : AtBranch h
    · obtain ⟨v, mask, x, l, hbne⟩ := hb
      rw [Nat.add_right_comm, runBranches_succ_of_bne hbne, runBranches_succ_of_bne hbne, ih]
    · simp only [runBranches_of_not_atBranch hb]

/-- Once a run of branches has reached an access, a longer run ends there too. -/
theorem runBranches_eq_of_le {k m n : Nat} {h : HostAgent} (hm : ¬ AtBranch (runBranches k m h)) (hmn : m ≤ n) :
    runBranches k n h = runBranches k m h := by
  obtain ⟨d, rfl⟩ := Nat.exists_eq_add_of_le hmn
  rw [runBranches_add, runBranches_of_not_atBranch hm]

/-- The place in the program is all that branches change, so the same place twice is the same host twice. -/
theorem runBranches_eq_of_pc_eq {k i j : Nat} {h : HostAgent}
    (hpc : (runBranches k i h).pc = (runBranches k j h).pc) : runBranches k i h = runBranches k j h := by
  obtain ⟨p, hp⟩ := runBranches_eq k i h
  obtain ⟨q, hq⟩ := runBranches_eq k j h
  rw [hp, hq] at hpc ⊢
  rw [show p = q from hpc]

/-- A branch is at one of the program's places. -/
theorem pc_lt_of_atBranch_runBranches {k i : Nat} {h : HostAgent} (hb : AtBranch (runBranches k i h)) :
    (runBranches k i h).pc < h.prog.length := by
  obtain ⟨p, hp⟩ := runBranches_eq k i h
  obtain ⟨v, m, x, l, hbne⟩ := hb
  rw [hp] at hbne ⊢
  exact (List.getElem?_eq_some_iff.1 hbne).1

/-- A shortest run of branches to an access meets no place of the program twice: what lies between could be cut out. -/
theorem pc_ne_of_least_run {k m i j : Nat} {h : HostAgent} (hend : ¬ AtBranch (runBranches k m h))
    (hleast : ∀ n < m, AtBranch (runBranches k n h)) (hij : i < j) (hjm : j < m) :
    (runBranches k i h).pc ≠ (runBranches k j h).pc := by
  intro hpc
  have hcut : runBranches k (i + (m - j)) h = runBranches k m h := by
    rw [runBranches_add, runBranches_eq_of_pc_eq hpc, ← runBranches_add, Nat.add_sub_cancel' hjm.le]
  exact hend (hcut ▸ hleast (i + (m - j)) (by omega))

/-- The pigeonhole: a shortest run of branches to an access has its branches at different places of the program, so they are no
more than its statements. -/
theorem branches_to_access_le_length {k m : Nat} {h : HostAgent} (hend : ¬ AtBranch (runBranches k m h))
    (hleast : ∀ n < m, AtBranch (runBranches k n h)) : m ≤ h.prog.length := by
  have places_differ : Function.Injective fun i : Fin m =>
      (⟨(runBranches k i h).pc, pc_lt_of_atBranch_runBranches (hleast i i.isLt)⟩ : Fin h.prog.length) :=
    Function.Injective.of_lt_imp_ne fun _ j hij heq => pc_ne_of_least_run hend hleast hij j.isLt (congrArg Fin.val heq)
  simpa using Fintype.card_le_of_injective _ places_differ

/-- Settles O52: a host not at a branch after `n` branches was at its access after the least number of branches that ends at
one, which the bound covers. -/
theorem branchBoundIsEnough : Obligations.BranchBoundIsEnough := by
  classical
  intro k h n hn
  by_cases hb : AtBranch (runBranches k n h)
  · exact .inr hb
  · have hex : ∃ m, ¬ AtBranch (runBranches k m h) := ⟨n, hb⟩
    have hend := Nat.find_spec hex
    have hbound := branches_to_access_le_length hend fun i hi => not_not.1 (Nat.find_min hex hi)
    have haccess : atAccess k h = runBranches k (Nat.find hex) h := runBranches_eq_of_le hend hbound
    refine .inl ⟨fun v m x l hbne => hend (haccess ▸ ⟨v, m, x, l, hbne⟩), ?_⟩
    rw [haccess, runBranches_eq_of_le hend (hbound.trans hn)]

end Sys2Proof.Proofs
end

section
/-! The assembly of host programs (30_encoding.md R110 to R114): what the pseudo-statements expand to, and which lists of lines
assemble. -/

namespace Sys2Proof.Proofs

open Sys2Proof.Machine Sys2Proof.Laws

/-- Settles O53: each of the three lines assembled alone, from statement 0 on. -/
theorem pseudoStatementsExpand : Obligations.PseudoStatementsExpand :=
  ⟨rfl, fun _ => rfl, fun _ => rfl⟩

/-- A label has a place iff a line defines it. -/
theorem isSome_labelPos (l : Nat) (ls : List Line) (pos : Nat) :
    (labelPos l ls pos).isSome = true ↔ l ∈ definedLabels ls := by
  induction ls generalizing pos with
  | nil => simp [labelPos, definedLabels]
  | cons x ls ih =>
    cases x with
    | label l' =>
      by_cases hl : l' = l
      · simp [labelPos, definedLabels, hl]
      · simp [labelPos, definedLabels, hl, ih, Ne.symm hl]
    | wr | rd | bne | waitdone | cmd | exec => exact ih _

/-- The labels a program branches to are those of its first line and those of the rest. -/
theorem usedLabels_cons (x : Line) (ls : List Line) : usedLabels (x :: ls) = usedLabels [x] ++ usedLabels ls := by
  cases x <;> rfl

/-- A line has statements iff the label it branches to, if it is a branch, is defined. -/
theorem isSome_lineStmts (all : List Line) (pos : Nat) (x : Line) :
    (lineStmts all pos x).isSome = true ↔ ∀ l ∈ usedLabels [x], l ∈ definedLabels all := by
  cases x with
  | bne v m val l => simp [lineStmts, usedLabels, isSome_labelPos]
  | label | wr | rd | waitdone | cmd | exec => simp [lineStmts, usedLabels]

/-- A list of lines assembles iff its first line has statements and the rest assembles. -/
theorem isSome_assembleFrom_cons (all : List Line) (x : Line) (ls : List Line) (pos : Nat) :
    (assembleFrom all (x :: ls) pos).isSome = true ↔
      (lineStmts all pos x).isSome = true ∧ (assembleFrom all ls (pos + lineSize x)).isSome = true := by
  rw [assembleFrom]
  cases lineStmts all pos x <;> cases assembleFrom all ls (pos + lineSize x) <;> simp

/-- Lines of a program assemble iff the program defines every label they branch to. -/
theorem isSome_assembleFrom (all ls : List Line) (pos : Nat) :
    (assembleFrom all ls pos).isSome = true ↔ ∀ l ∈ usedLabels ls, l ∈ definedLabels all := by
  induction ls generalizing pos with
  | nil => simp [assembleFrom, usedLabels]
  | cons x ls ih =>
    rw [isSome_assembleFrom_cons, isSome_lineStmts, ih, usedLabels_cons x ls, List.forall_mem_append]

/-- Settles O54: the whole program is assembled from its first line on. -/
theorem assemblesIffLabelsDefined : Obligations.AssemblesIffLabelsDefined := by
  intro ls
  rw [← Option.isSome_iff_exists, assemble, isSome_assembleFrom]
  simp [labelsDefined]

end Sys2Proof.Proofs
end

section
/-! The CRC-8 unit (40_crc8.md R121 to R125, R129, R130): the loop is linear over GF(2), so it is known by its values at the
eight one-bit bytes, and injective, so an error in one byte of a triplet always shows. -/

namespace Sys2Proof.Proofs

open Sys2Proof.Machine Sys2Proof.Laws

/-! ### Linear functions of a vector -/

/-- Functions linear over GF(2) that agree at the one-bit vectors agree: a vector is the XOR of its bits. -/
theorem eq_of_xor_linear {w m : Nat} {f g : BitVec w → BitVec m} (hf : ∀ a b, f (a ^^^ b) = f a ^^^ f b)
    (hg : ∀ a b, g (a ^^^ b) = g a ^^^ g b) (hbit : ∀ k < w, f (BitVec.twoPow w k) = g (BitVec.twoPow w k))
    (v : BitVec w) : f v = g v := by
  have hlow : ∀ n ≤ w, ∀ v : BitVec w, (∀ k, n ≤ k → v.getLsbD k = false) → f v = g v := by
    intro n hn
    induction n with
    | zero =>
      intro v hv
      have hv0 : v = v ^^^ v := by
        rw [BitVec.xor_self]
        exact BitVec.eq_of_getLsbD_eq fun k _ => by simpa using hv k (Nat.zero_le k)
      rw [hv0, hf, hg, BitVec.xor_self, BitVec.xor_self]
    | succ n ih =>
      intro v hv
      cases hn' : v.getLsbD n with
      | false =>
        exact ih (by omega) v fun k hk => (Nat.eq_or_lt_of_le hk).elim (fun h => h ▸ hn') (hv k)
      | true =>
        have hrest : f (v ^^^ BitVec.twoPow w n) = g (v ^^^ BitVec.twoPow w n) := by
          refine ih (by omega) _ fun k hk => ?_
          rcases Nat.eq_or_lt_of_le hk with rfl | hlt
          · simp [hn', Nat.lt_of_succ_le hn]
          · simp [BitVec.getLsbD_twoPow, hv k hlt, hlt.ne]
        rwa [hf, hg, hbit n hn, BitVec.xor_left_inj] at hrest
  exact hlow w le_rfl v fun k hk => BitVec.getLsbD_of_ge v k hk

/-! ### The parallel equations and the table -/

/-- The XOR of two bytes is that of their bits. -/
theorem byteOfBits_xor (a0 a1 a2 a3 a4 a5 a6 a7 b0 b1 b2 b3 b4 b5 b6 b7 : Bool) :
    byteOfBits a0 a1 a2 a3 a4 a5 a6 a7 ^^^ byteOfBits b0 b1 b2 b3 b4 b5 b6 b7 =
      byteOfBits (a0 ^^ b0) (a1 ^^ b1) (a2 ^^ b2) (a3 ^^ b3) (a4 ^^ b4) (a5 ^^ b5) (a6 ^^ b6) (a7 ^^ b7) := by
  simp only [byteOfBits, ← BitVec.ofBool_xor_ofBool, ← BitVec.xor_append]

/-- The parallel equations are linear: each is an XOR of bits (40_crc8.md R123). -/
theorem crcParallel_xor (a b : Byte) : crcParallel (a ^^^ b) = crcParallel a ^^^ crcParallel b := by
  simp only [crcParallel, byteOfBits_xor, BitVec.getLsbD_xor]
  congr 1 <;> simp only [Bool.xor_assoc, Bool.xor_left_comm]

/-- The eight equations give what the eight steps of the loop give (40_crc8.md R123). -/
theorem crcShifts_eq_crcParallel (v : Byte) : crcShifts 8 v = crcParallel v :=
  eq_of_xor_linear (crcShifts_xor 8) crcParallel_xor (by decide) v

/-- Settles O2: both forms are linear and agree at the eight one-bit bytes. -/
theorem crcParallelFormIsTheLoop : Obligations.CrcParallelFormIsTheLoop := by
  refine ⟨fun c b => crcShifts_eq_crcParallel _, fun hi lo => ?_⟩
  simp only [crc8, crc8Byte, crcShifts_eq_crcParallel]

/-- Each of the 256 entries of the table is the loop's value at its index (40_crc8.md R124). -/
theorem crcTable_eq_crcShifts (v : Byte) : crcTable v = crcShifts 8 v := by
  revert v
  decide +kernel

/-- Settles O3: the table is entered at `c ^ b`, the byte on which the loop begins. -/
theorem crcTableFormIsTheLoop : Obligations.CrcTableFormIsTheLoop :=
  ⟨fun c b => (crcTable_eq_crcShifts (c ^^^ b)).symm, fun i => by
    rw [crcTable_eq_crcShifts, crc8Byte, BitVec.zero_xor]⟩

/-! ### The loop is injective -/

/-- A step gives nothing from nothing only: where it shifts a 1 out it sets bit 0. -/
theorem crcShift_eq_zero {v : Byte} : crcShift v = 0#8 ↔ v = 0#8 := by
  refine ⟨fun h => ?_, fun h => by rw [h]; rfl⟩
  unfold crcShift at h
  split at h
  · have hbit := congrArg (·.getLsbD 0) h
    simp at hbit
  · rename_i htop
    refine BitVec.eq_of_getLsbD_eq fun k hk => ?_
    have hbit := congrArg (·.getLsbD (k + 1)) h
    by_cases hk7 : k = 7
    · simpa [hk7] using htop
    · simpa [BitVec.getLsbD_shiftLeft, show k + 1 < 8 by omega, hk] using hbit

theorem crcShifts_eq_zero (n : Nat) {v : Byte} : crcShifts n v = 0#8 ↔ v = 0#8 := by
  induction n generalizing v with
  | zero => rfl
  | succ n ih => rw [crcShifts, ih, crcShift_eq_zero]

/-- Injective, since it is linear and gives nothing from nothing only. -/
theorem crcShifts_inj (n : Nat) {a b : Byte} : crcShifts n a = crcShifts n b ↔ a = b := by
  rw [← BitVec.xor_eq_zero_iff, ← crcShifts_xor, crcShifts_eq_zero, BitVec.xor_eq_zero_iff]

theorem crc8Byte_left_inj {c c' b : Byte} : crc8Byte c b = crc8Byte c' b ↔ c = c' := by
  rw [crc8Byte, crc8Byte, crcShifts_inj, BitVec.xor_left_inj]

theorem crc8Byte_right_inj {c b b' : Byte} : crc8Byte c b = crc8Byte c b' ↔ b = b' := by
  rw [crc8Byte, crc8Byte, crcShifts_inj, BitVec.xor_right_inj]

theorem crc8_left_inj {hi hi' lo : Byte} : crc8 hi lo = crc8 hi' lo ↔ hi = hi' := by
  rw [crc8, crc8, crc8Byte_left_inj, crc8Byte_right_inj]

theorem crc8_right_inj {hi lo lo' : Byte} : crc8 hi lo = crc8 hi lo' ↔ lo = lo' := crc8Byte_right_inj

/-! ### Triplets -/

/-- Settles O4: the third byte leaves nothing exactly where it is the CRC of the first two. -/
theorem crcResidueIsZeroIffVerified : Obligations.CrcResidueIsZeroIffVerified := fun hi lo c =>
  ⟨tripletOk_iff hi lo c, by rw [crc8Byte, crcShifts_eq_zero, BitVec.xor_eq_zero_iff, tripletOk_iff]⟩

/-- A byte with bits flipped is another byte. -/
theorem xor_eq_left_iff {x e : Byte} : x ^^^ e = x ↔ e = 0#8 := by
  rw [← BitVec.xor_right_inj (x := e) x, BitVec.xor_zero]

/-- Any error confined to one byte of a verified triplet is detected. -/
theorem tripletOk_eq_false_of_byte_error {hi lo c e : Byte} (hok : tripletOk hi lo c = true) (he : e ≠ 0#8) :
    tripletOk (hi ^^^ e) lo c = false ∧ tripletOk hi (lo ^^^ e) c = false ∧ tripletOk hi lo (c ^^^ e) = false := by
  rw [tripletOk_iff] at hok
  subst hok
  simp only [← Bool.not_eq_true, tripletOk_iff, crc8_left_inj, crc8_right_inj, xor_eq_left_iff,
    eq_comm (a := crc8 hi lo), he, not_false_eq_true, and_self]

/-- Settles O6: a single flipped bit is an error confined to one byte. -/
theorem crcDetectsEverySingleBitError : Obligations.CrcDetectsEverySingleBitError := fun _ _ _ hok k hk =>
  have hbit : ∀ j < 8, BitVec.twoPow 8 j ≠ 0#8 := by decide
  tripletOk_eq_false_of_byte_error hok (hbit k hk)

/-! ### The word CRC -/

/-- The word CRC is a linear part, the bytes through the loop, and what it gives for the word 0 (40_crc8.md R129). -/
theorem crc8_eq_linear_xor (hi lo : Byte) :
    crc8 hi lo = (crcShifts 8 (crcShifts 8 hi) ^^^ crcShifts 8 lo) ^^^ crc8 0x00#8 0x00#8 := by
  rw [crc8, crc8Byte, crc8Byte, crcShifts_xor, crcShifts_xor, crcShifts_xor]
  rw [crc8, crc8Byte, crc8Byte, BitVec.xor_zero, BitVec.xor_zero]
  exact (BitVec.xor_assoc _ _ _).trans (BitVec.xor_comm _ _)

/-- The inner two of four bytes change places. -/
theorem xor_xor_xor_comm (x y z u : Byte) : (x ^^^ y) ^^^ (z ^^^ u) = (x ^^^ z) ^^^ (y ^^^ u) := by
  ac_rfl

theorem hiByte_xor (a a' : Word) : hiByte (a ^^^ a') = hiByte a ^^^ hiByte a' := BitVec.extractLsb'_xor

theorem loByte_xor (a a' : Word) : loByte (a ^^^ a') = loByte a ^^^ loByte a' := BitVec.extractLsb'_xor

/-- Settles O5: the constant parts of two words cancel and their linear parts add. -/
theorem crcIsAffine : Obligations.CrcIsAffine := by
  refine ⟨fun a a' => ?_, by decide +kernel⟩
  have hzero : crc8 (hiByte 0x0000#16) (loByte 0x0000#16) = crc8 0x00#8 0x00#8 := rfl
  rw [hzero, crc8_eq_linear_xor (hiByte a), crc8_eq_linear_xor (hiByte a'), xor_cancel_both, crc8_eq_linear_xor,
    hiByte_xor, loByte_xor]
  simp only [crcShifts_xor, xor_xor_xor_comm]

/-- Settles O1: the loop evaluated on the source's two bytes. -/
theorem crc8ReferenceVector : Obligations.Crc8ReferenceVector := by
  unfold Obligations.Crc8ReferenceVector
  decide +kernel

end Sys2Proof.Proofs
end

section
/-! The CRC port (40_crc8.md R126, R127): its operand is written beside the sequencer and read by nothing in it, so a cycle of the
sequencer is the same whatever the operand holds and whether or not it is written. -/

namespace Sys2Proof.Proofs

open Sys2Proof.Machine Sys2Proof.Laws

/-! ### A CRC_IN write -/

/-- A write to a register other than CMD is never held (41_command_framer.md R141). -/
theorem hWait_of_cmd_none {s : State} (hcmd : writeData .cmd s = none) : hWait s = false := by
  simp [hWait, hcmd]

/-- A CRC_IN write is no CMD write. -/
theorem cmd_none_of_crcIn {s : State} {w : Word} (hw : writeData .crcIn s = some w) : writeData .cmd s = none :=
  writeData_unique hw (by decide)

/-- In a cycle without reset CRC_IN_REG takes the word written, or keeps its value (40_crc8.md R127). -/
theorem afterCycle_crcInReg {s : State} (hrst : (draw s).rst = false) :
    (afterCycle s).crcInReg = (writeData .crcIn s).getD s.crcInReg := by
  rcases afterCycle_cases s with ⟨hr, _⟩ | ⟨_, _, i, hw, h⟩ | ⟨_, _, w, hw, _, h⟩ | ⟨_, _, _, h⟩ | ⟨_, _, h⟩
  · simp [hrst] at hr
  · simp [h, writeData_unique hw (r' := .crcIn) (by decide)]
  · simp [h, writeData_unique hw (r' := .crcIn) (by decide)]
  · simp [h]
  · simp [h, (commandCycle_frame _ s).1]

/-! ### The sequencer of a state -/

@[simp] theorem sequencerOf_advance (s t : State) : sequencerOf (advance s t) = sequencerOf t := rfl

@[simp] theorem sequencerOf_withGrant (g : Grant) (s : State) : sequencerOf (withGrant g s) = sequencerOf s := rfl

@[simp] theorem sequencerOf_crcPort (s t : State) : sequencerOf (crcPort s t) = sequencerOf t := by
  simp [sequencerOf, blockOf]

/-- In a cycle in which no CMD write reaches an idle block the host access leaves the sequencer as the cycle would without it. -/
theorem sequencerOf_afterCycle_withGrant_none {s : State} (hcmd : s.phase = .idle → writeData .cmd s = none) :
    sequencerOf (afterCycle (withGrant .none s)) = sequencerOf (afterCycle s) := by
  by_cases hr : (draw s).rst = true
  · simp only [afterCycle, draw_withGrant, hr, if_true]; rfl
  · by_cases hp : s.phase = .idle
    · simp [afterCycle, hr, fetch_idle_none hp (hcmd hp), fetch_idle_none (s := withGrant .none s) hp rfl]
    · simp [afterCycle, hr, fetch_busy hp, fetch_busy (s := withGrant .none s) hp, commandCycle_withGrant]

/-- A CRC_IN write leaves the sequencer as the cycle would without it (40_crc8.md R126). -/
theorem sequencerOf_afterCycle_of_crcIn {s : State} {w : Word} (hw : writeData .crcIn s = some w) :
    sequencerOf (afterCycle s) = sequencerOf (afterCycle (withGrant .none s)) :=
  (sequencerOf_afterCycle_withGrant_none fun _ => cmd_none_of_crcIn hw).symm

/-- Settles O7: the write reaches CRC_IN_REG, which the two registers of the port read, and not the sequencer. -/
theorem crcInWriteIsVisibleNextCycle : Obligations.CrcInWriteIsVisibleNextCycle := by
  refine ⟨fun s w hrst hw => ?_, fun s hrst hw => ?_, fun s hrst => ?_⟩
  · have hreg : (advance s (afterCycle s)).crcInReg = w := by simp [afterCycle_crcInReg hrst, hw]
    refine ⟨hWait_of_cmd_none (cmd_none_of_crcIn hw), _, _, step_eq s, step_eq _, hreg, ?_,
      sequencerOf_afterCycle_of_crcIn hw⟩
    rw [readReg, crcOut, hreg]
    rfl
  · exact ⟨_, step_eq s, by simp [afterCycle_crcInReg hrst, hw]⟩
  · exact ⟨_, step_eq s, by simp [afterCycle, hrst]⟩

/-! ### A cycle from another operand -/

/-- `s` with another operand in the CRC port. -/
def withCrcIn (c : Word) (s : State) : State := { s with crcInReg := c }

@[simp] theorem sequencerOf_withCrcIn (c : Word) (s : State) : sequencerOf (withCrcIn c s) = sequencerOf s := rfl

@[simp] theorem draw_withCrcIn (c : Word) (s : State) : draw (withCrcIn c s) = draw s := rfl

/-- The end of a transaction does not see the operand. -/
theorem endTransaction_withCrcIn (d : Descriptor) (c : Word) (s : State) :
    endTransaction d (withCrcIn c s) = withCrcIn c (endTransaction d s) := by
  rw [endTransaction, endTransaction, apply_ite (withCrcIn c)]
  rfl

/-- The recording of a response does not see the operand. -/
theorem recordOutcome_withCrcIn (d : Descriptor) (ok : Bool) (data : BitVec 72) (cause : Byte) (c : Word) (s : State) :
    recordOutcome d ok data cause (withCrcIn c s) = withCrcIn c (recordOutcome d ok data cause s) := by
  unfold recordOutcome recordSuccess
  split_ifs <;> rfl

/-- A command's cycle neither reads nor writes the operand. -/
theorem commandCycle_withCrcIn (i : Instr) (c : Word) (s : State) :
    commandCycle i (withCrcIn c s) = withCrcIn c (commandCycle i s) := by
  cases hp : s.phase with
  | idle => rw [commandCycle_idle hp, commandCycle_idle (s := withCrcIn c s) hp]; rfl
  | req =>
    rw [commandCycle_req hp, commandCycle_req (s := withCrcIn c s) hp, apply_ite (withCrcIn c)]
    rfl
  | wait =>
    rw [commandCycle_wait hp, commandCycle_wait (s := withCrcIn c s) hp]
    simp only [responseCycle, draw_withCrcIn, recordOutcome_withCrcIn, endTransaction_withCrcIn, apply_ite (withCrcIn c)]
  | delay =>
    rw [commandCycle_delay hp, commandCycle_delay (s := withCrcIn c s) hp, delayCycle, delayCycle,
      apply_ite (withCrcIn c)]
    rfl

/-- The operand does not reach the port's choice of what the block does (40_crc8.md R126). -/
@[simp] theorem fetch_withCrcIn (c : Word) (s : State) : fetch (withCrcIn c s) = fetch s := rfl

/-- A CRC_IN write replaces the operand; without one the operand stays. -/
theorem crcPort_withCrcIn (c : Word) (s t : State) :
    ∃ c', crcPort (withCrcIn c s) (withCrcIn c t) = withCrcIn c' (crcPort s t) := by
  have hport : crcPort (withCrcIn c s) (withCrcIn c t) = crcPort s (withCrcIn c t) := rfl
  rw [hport]
  unfold crcPort
  cases writeData .crcIn s with
  | none => exact ⟨c, rfl⟩
  | some w => exact ⟨w, rfl⟩

/-- The block after a cycle from another operand differs at most in the operand. -/
theorem afterCycle_withCrcIn (c : Word) (s : State) :
    ∃ c', afterCycle (withCrcIn c s) = withCrcIn c' (afterCycle s) := by
  unfold afterCycle
  rw [draw_withCrcIn, fetch_withCrcIn]
  split
  · exact ⟨0x0000#16, rfl⟩
  · cases fetch s with
    | command i => simpa only [commandCycle_withCrcIn] using crcPort_withCrcIn c s (commandCycle i s)
    | illegal w => exact crcPort_withCrcIn c s (reject w s)
    | nothing => exact crcPort_withCrcIn c s s

/-! ### Runs from another operand -/

/-- Where no host program is held none appears. -/
theorem hostsAfter_of_nil {s : State} (hs : s.hosts = []) : hostsAfter s = [] := by
  rw [← List.length_eq_zero_iff, hostsAfter_length, hs, List.length_nil]

/-- With no host program that could read the port, the whole next state from another operand differs at most in the operand. -/
theorem advance_withCrcIn {s : State} (hs : s.hosts = []) (c c' : Word) (t : State) :
    advance (withCrcIn c s) (withCrcIn c' t) = withCrcIn c' (advance s t) := by
  have hhosts : hostsAfter (withCrcIn c s) = hostsAfter s := by
    rw [hostsAfter_of_nil hs, hostsAfter_of_nil (s := withCrcIn c s) hs]
  rw [advance, hhosts]
  rfl

/-- With no host program, the states after any number of cycles from two operands differ at most in the operand. -/
theorem cycles_withCrcIn (n : Nat) {s : State} (hs : s.hosts = []) (c : Word) :
    ∃ t c', cycles n s = .next t ∧ cycles n (withCrcIn c s) = .next (withCrcIn c' t) := by
  induction n generalizing s c with
  | zero => exact ⟨s, c, rfl, rfl⟩
  | succ n ih =>
    obtain ⟨c', hc'⟩ := afterCycle_withCrcIn c s
    rw [cycles_succ, cycles_succ, hc', advance_withCrcIn hs]
    exact ih (hostsAfter_of_nil hs) c'

/-- Settles O8: a CRC_IN write is beside the sequencer, and runs from two operands differ in the operand alone. -/
theorem crcPortNeverReachesTheSequencer : Obligations.CrcPortNeverReachesTheSequencer := by
  refine ⟨fun s w hw => ?_, fun s c n hs => ?_⟩
  · exact ⟨hWait_of_cmd_none (cmd_none_of_crcIn hw), _, _, step_eq s, step_eq _, sequencerOf_afterCycle_of_crcIn hw⟩
  · obtain ⟨t, c', ht, hu⟩ := cycles_withCrcIn n hs c
    exact ⟨t, withCrcIn c' t, ht, hu, (sequencerOf_withCrcIn c' t).symm⟩

end Sys2Proof.Proofs
end

section
/-! The sequencer's cycle, phase by phase (41_command_framer.md R140 to R149): the block after a cycle without reset, and what
it does to the stored elements of the sequencer. -/

namespace Sys2Proof.Proofs

open Sys2Proof.Machine Sys2Proof.Laws

/-! ### The block after a cycle -/

theorem afterCycle_reset {s : State} (hrst : (draw s).rst = true) : afterCycle s = resetBlock s := if_pos hrst

/-- A legal opcode written to the idle block is accepted (41_command_framer.md R142). -/
theorem afterCycle_accept {s : State} {i : Instr} (hrst : (draw s).rst = false) (hp : s.phase = .idle)
    (hw : writeData .cmd s = some (encode i)) : afterCycle s = accept i s := by
  rcases afterCycle_cases s with ⟨hr, _⟩ | ⟨_, _, j, hj, h⟩ | ⟨_, _, w, hj, hd, _⟩ | ⟨_, _, hn, _⟩ | ⟨_, hb, _⟩
  · simp [hrst] at hr
  · have hij : i = j := by simpa [hj, eq_comm] using congrArg (·.bind decodeWord) hw
    rw [h, hij]
  · simp [Option.some.inj (hj.symm.trans hw)] at hd
  · simp [hw] at hn
  · exact absurd hp hb

/-- A word outside the catalog written to the idle block is rejected (41_command_framer.md R143). -/
theorem afterCycle_reject {s : State} {w : Word} (hrst : (draw s).rst = false) (hp : s.phase = .idle)
    (hw : writeData .cmd s = some w) (hd : decodeWord w = none) : afterCycle s = reject w s := by
  rcases afterCycle_cases s with ⟨hr, _⟩ | ⟨_, _, j, hj, _⟩ | ⟨_, _, v, hv, _, h⟩ | ⟨_, _, hn, _⟩ | ⟨_, hb, _⟩
  · simp [hrst] at hr
  · simp [← Option.some.inj (hj.symm.trans hw)] at hd
  · rw [h, Option.some.inj (hv.symm.trans hw)]
  · simp [hw] at hn
  · exact absurd hp hb

/-- A command in flight goes on, with the CRC port beside it (41_command_framer.md R140). -/
theorem afterCycle_busy {s : State} (hrst : (draw s).rst = false) (hbusy : s.phase ≠ .idle) :
    afterCycle s = crcPort s (commandCycle (inFlight s) s) := by
  simp [afterCycle, hrst, fetch_busy hbusy]

/-! ### The end of a transaction -/

theorem endTransaction_of_pos {d : Descriptor} {s : State} (hL : 0 < delayCycles d s) :
    endTransaction d s = { s with dcnt := delayCycles d s, phase := .delay } := if_pos hL

theorem endTransaction_of_zero {d : Descriptor} {s : State} (hL : delayCycles d s = 0) :
    endTransaction d s = complete s := if_neg (by omega)

theorem responseCycle_of_response {d : Descriptor} {s : State} (hv : (draw s).tRspValid = true) :
    responseCycle d s =
      endTransaction d (recordOutcome d (draw s).tRspOk (draw s).tRspData (draw s).tRspCause s) := if_pos hv

theorem responseCycle_of_no_response {d : Descriptor} {s : State} (hv : (draw s).tRspValid = false) :
    responseCycle d s = s := by
  simp [responseCycle, hv]

section
variable (d : Descriptor) (ok : Bool) (data : BitVec 72) (cause : Byte) (s : State)

/-! The recording of an outcome leaves the count and the parameters (41_command_framer.md R146, R147). -/

@[simp] theorem recordOutcome_done : (recordOutcome d ok data cause s).done = s.done := by
  obtain ⟨_, _, _, _, _, _, h⟩ := recordOutcome_frame d ok data cause s; rw [h]
@[simp] theorem recordOutcome_dcnt : (recordOutcome d ok data cause s).dcnt = s.dcnt := by
  obtain ⟨_, _, _, _, _, _, h⟩ := recordOutcome_frame d ok data cause s; rw [h]
@[simp] theorem recordOutcome_config : (recordOutcome d ok data cause s).config = s.config := by
  obtain ⟨_, _, _, _, _, _, h⟩ := recordOutcome_frame d ok data cause s; rw [h]

/-- A delay is of the same length before and after an outcome is recorded. -/
@[simp] theorem delayCycles_recordOutcome (e : Descriptor) :
    delayCycles e (recordOutcome d ok data cause s) = delayCycles e s := by
  simp [delayCycles]

end

/-! ### The count of a delay -/

theorem delayCycle_of_one {s : State} (hd : s.dcnt = 1) : delayCycle s = complete { s with dcnt := 0 } := if_pos hd

theorem delayCycle_of_lt {s : State} (hd : 1 < s.dcnt) : delayCycle s = { s with dcnt := s.dcnt - 1 } := by
  have hdec : decrement s = s.dcnt - 1 := if_neg (by omega)
  rw [delayCycle, if_neg (by omega), hdec]

/-! ### The sequencer after a step -/

/-- A step of a command in flight leaves the sequencer as the command's cycle does, whatever the hosts write. -/
theorem step_busy {s : State} (hrst : (draw s).rst = false) (hbusy : s.phase ≠ .idle) :
    ∃ t, step s = .next t ∧ sequencerOf t = sequencerOf (commandCycle (inFlight s) s) :=
  ⟨_, step_eq s, by rw [afterCycle_busy hrst hbusy, sequencerOf_advance, sequencerOf_crcPort]⟩

/-- A step in which a legal opcode reaches the idle block (41_command_framer.md R142). -/
theorem step_accept {s : State} {i : Instr} (hrst : (draw s).rst = false) (hp : s.phase = .idle)
    (hw : writeData .cmd s = some (encode i)) : step s = .next (advance s (accept i s)) := by
  rw [step_eq, afterCycle_accept hrst hp hw]

/-- The command just accepted presents its own request in the next cycle (41_command_framer.md R144). -/
theorem tRequest_accept (i : Instr) (s : State) :
    tRequest (advance s (accept i s)) =
      some { wdata := encode i, rlen := BitVec.ofNat 4 (descriptor i).rlen } := by
  simp [tRequest, requestOf, inFlight]

/-- Until the transport takes the request, nothing moves (41_command_framer.md R144). -/
theorem step_req_waiting {s : State} (hrst : (draw s).rst = false) (hp : s.phase = .req)
    (hready : (draw s).tReqReady = false) : ∃ t, step s = .next t ∧ sequencerOf t = sequencerOf s := by
  obtain ⟨t, ht, hseq⟩ := step_busy hrst (by simp [hp])
  exact ⟨t, ht, by simpa [commandCycle_req hp, hready] using hseq⟩

/-- The handshake takes the command to PHASE WAIT (41_command_framer.md R144). -/
theorem step_req_taken {s : State} (hrst : (draw s).rst = false) (hp : s.phase = .req)
    (hready : (draw s).tReqReady = true) :
    ∃ t, step s = .next t ∧ sequencerOf t = { sequencerOf s with phase := .wait } := by
  obtain ⟨t, ht, hseq⟩ := step_busy hrst (by simp [hp])
  exact ⟨t, ht, by rw [hseq, commandCycle_req hp, if_pos hready]; rfl⟩

/-- Until the transport answers, nothing moves (20_memory.md R69). -/
theorem step_wait_waiting {s : State} (hrst : (draw s).rst = false) (hp : s.phase = .wait)
    (hv : (draw s).tRspValid = false) : ∃ t, step s = .next t ∧ sequencerOf t = sequencerOf s := by
  obtain ⟨t, ht, hseq⟩ := step_busy hrst (by simp [hp])
  exact ⟨t, ht, by rw [hseq, commandCycle_wait hp, responseCycle_of_no_response hv]⟩

/-- The response of this cycle to the command in flight, recorded in the block. -/
def recorded (s : State) : State :=
  recordOutcome (descriptor (inFlight s)) (draw s).tRspOk (draw s).tRspData (draw s).tRspCause s

/-- A response to a command with a delay loads it (41_command_framer.md R148). -/
theorem step_response_delay {s : State} (hrst : (draw s).rst = false) (hp : s.phase = .wait)
    (hv : (draw s).tRspValid = true) (hL : 0 < delayCycles (descriptor (inFlight s)) s) :
    ∃ t, step s = .next t ∧ sequencerOf t =
      { sequencerOf (recorded s) with phase := .delay, dcnt := delayCycles (descriptor (inFlight s)) s } := by
  obtain ⟨t, ht, hseq⟩ := step_busy hrst (by simp [hp])
  refine ⟨t, ht, ?_⟩
  rw [hseq, commandCycle_wait hp, responseCycle_of_response hv, endTransaction_of_pos (by simpa using hL),
    delayCycles_recordOutcome]
  rfl

/-- A response to a command without a delay completes it (41_command_framer.md R148, R150). -/
theorem step_response_complete {s : State} (hrst : (draw s).rst = false) (hp : s.phase = .wait)
    (hv : (draw s).tRspValid = true) (hL : delayCycles (descriptor (inFlight s)) s = 0) :
    ∃ t, step s = .next t ∧ sequencerOf t = { sequencerOf (recorded s) with phase := .idle, done := true } := by
  obtain ⟨t, ht, hseq⟩ := step_busy hrst (by simp [hp])
  refine ⟨t, ht, ?_⟩
  rw [hseq, commandCycle_wait hp, responseCycle_of_response hv, endTransaction_of_zero (by simpa using hL)]
  rfl

/-- A cycle of a delay that is not its last counts it down (41_command_framer.md R149). -/
theorem step_delay_count {s : State} (hrst : (draw s).rst = false) (hp : s.phase = .delay) (hd : 1 < s.dcnt) :
    ∃ t, step s = .next t ∧ sequencerOf t = { sequencerOf s with dcnt := s.dcnt - 1 } := by
  obtain ⟨t, ht, hseq⟩ := step_busy hrst (by simp [hp])
  exact ⟨t, ht, by rw [hseq, commandCycle_delay hp, delayCycle_of_lt hd]; rfl⟩

/-- The last cycle of a delay completes the command (41_command_framer.md R149, R150). -/
theorem step_delay_complete {s : State} (hrst : (draw s).rst = false) (hp : s.phase = .delay) (hd : s.dcnt = 1) :
    ∃ t, step s = .next t ∧ sequencerOf t = { sequencerOf s with phase := .idle, done := true, dcnt := 0 } := by
  obtain ⟨t, ht, hseq⟩ := step_busy hrst (by simp [hp])
  exact ⟨t, ht, by rw [hseq, commandCycle_delay hp, delayCycle_of_one hd]; rfl⟩

/-! ### Runs -/

/-- What the outside presents in the cycles after a run is what it presented beyond it at the start. -/
theorem drawAt_of_cycles {n : Nat} {s t : State} (h : cycles n s = .next t) (k : Nat) :
    drawAt t k = drawAt s (n + k) := by
  induction n generalizing s with
  | zero => cases h; rw [Nat.zero_add]
  | succ n ih => rw [cycles_succ] at h; rw [ih h, drawAt_advance, Nat.add_right_comm]

theorem draw_of_cycles {n : Nat} {s t : State} (h : cycles n s = .next t) : draw t = drawAt s n :=
  drawAt_of_cycles h 0

/-- No run writes the parameters. -/
theorem config_of_cycles {n : Nat} {s t : State} (h : cycles n s = .next t) : t.config = s.config := by
  induction n generalizing s with
  | zero => cases h; rfl
  | succ n ih => rw [cycles_succ] at h; rw [ih h, advance_config, afterCycle_config]

theorem cycles_one {s t : State} (h : step s = .next t) : cycles 1 s = .next t := by
  simp [cycles, h]

/-- A run is made longer by one cycle at its end. -/
theorem cycles_snoc {n : Nat} {s t u : State} (h : cycles n s = .next t) (hstep : step t = .next u) :
    cycles (n + 1) s = .next u := by
  rw [cycles_add n 1 h, cycles_one hstep]

/-- A property of the number of cycles and the state that every cycle of a run carries on holds at its end. -/
theorem cycles_induct {P : Nat → State → Prop} {s : State} (n : Nat) (start : P 0 s)
    (carry : ∀ k t, k < n → draw t = drawAt s k → P k t → ∃ u, step t = .next u ∧ P (k + 1) u) :
    ∃ t, cycles n s = .next t ∧ P n t := by
  induction n with
  | zero => exact ⟨s, rfl, start⟩
  | succ n ih =>
    obtain ⟨t, ht, hP⟩ := ih fun k t hk => carry k t (by omega)
    obtain ⟨u, hu, hP'⟩ := carry n t (by omega) (draw_of_cycles ht) hP
    exact ⟨u, cycles_snoc ht hu, hP'⟩

/-- PHASE REQ lasts while the transport is not ready (41_command_framer.md R144). -/
theorem cycles_req_waiting {s : State} {n : Nat} (hp : s.phase = .req) (hrst : ∀ k < n, (drawAt s k).rst = false)
    (hready : ∀ k < n, (drawAt s k).tReqReady = false) :
    ∃ t, cycles n s = .next t ∧ sequencerOf t = sequencerOf s :=
  cycles_induct (P := fun _ t => sequencerOf t = sequencerOf s) n rfl fun k t hk hdraw hseq =>
    hseq ▸ step_req_waiting (by rw [hdraw, hrst k hk]) ((congrArg Block.phase hseq).trans hp)
      (by rw [hdraw, hready k hk])

/-- PHASE WAIT lasts while the transport does not answer (20_memory.md R69). -/
theorem cycles_wait_waiting {s : State} {n : Nat} (hp : s.phase = .wait) (hrst : ∀ k < n, (drawAt s k).rst = false)
    (hv : ∀ k < n, (drawAt s k).tRspValid = false) :
    ∃ t, cycles n s = .next t ∧ sequencerOf t = sequencerOf s :=
  cycles_induct (P := fun _ t => sequencerOf t = sequencerOf s) n rfl fun k t hk hdraw hseq =>
    hseq ▸ step_wait_waiting (by rw [hdraw, hrst k hk]) ((congrArg Block.phase hseq).trans hp)
      (by rw [hdraw, hv k hk])

/-- The delay counted down by `k` cycles, fewer than are left of it. -/
theorem cycles_delay_count {s : State} {k : Nat} (hp : s.phase = .delay) (hk : k < s.dcnt)
    (hrst : ∀ j < k, (drawAt s j).rst = false) :
    ∃ t, cycles k s = .next t ∧ sequencerOf t = { sequencerOf s with dcnt := s.dcnt - k } := by
  refine cycles_induct (P := fun j t => sequencerOf t = { sequencerOf s with dcnt := s.dcnt - j }) k rfl
    fun j t hj hdraw hseq => ?_
  have hphase : t.phase = .delay := (congrArg Block.phase hseq).trans hp
  have hcount : t.dcnt = s.dcnt - j := congrArg Block.dcnt hseq
  obtain ⟨u, hu, hcounted⟩ := step_delay_count (by rw [hdraw, hrst j hj]) hphase (by omega)
  exact ⟨u, hu, by rw [hcounted, hseq, hcount, Nat.sub_sub]⟩

/-- The delay counted to its end: the command is complete (41_command_framer.md R149, R150). -/
theorem cycles_delay_complete {s : State} (hp : s.phase = .delay) (hpos : 1 ≤ s.dcnt)
    (hrst : ∀ j < s.dcnt, (drawAt s j).rst = false) :
    ∃ t, cycles s.dcnt s = .next t ∧
      sequencerOf t = { sequencerOf s with phase := .idle, done := true, dcnt := 0 } := by
  obtain ⟨t, ht, hseq⟩ := cycles_delay_count (k := s.dcnt - 1) hp (by omega) fun j hj => hrst j (by omega)
  have hphase : t.phase = .delay := (congrArg Block.phase hseq).trans hp
  have hcount : t.dcnt = s.dcnt - (s.dcnt - 1) := congrArg Block.dcnt hseq
  obtain ⟨u, hu, hdone⟩ :=
    step_delay_complete (by rw [draw_of_cycles ht, hrst _ (by omega)]) hphase (by omega)
  exact ⟨u, by simpa [Nat.sub_add_cancel hpos] using cycles_snoc ht hu, by rw [hdone, hseq]⟩

section
variable {s : State} (hp : s.phase = .wait) (hv : (draw s).tRspValid = true)
  (hrst : ∀ k, k ≤ delayCycles (descriptor (inFlight s)) s → (drawAt s k).rst = false)
include hp hv hrst

/-- From the response cycle on, the delay runs with the outcome recorded (41_command_framer.md R148, R149). -/
theorem cycles_response_delay {k : Nat} (h1 : 1 ≤ k) (hk : k ≤ delayCycles (descriptor (inFlight s)) s) :
    ∃ t, cycles k s = .next t ∧ sequencerOf t =
      { sequencerOf (recorded s) with
        phase := .delay, dcnt := delayCycles (descriptor (inFlight s)) s + 1 - k } := by
  obtain ⟨j, rfl⟩ := Nat.exists_eq_add_of_le h1
  obtain ⟨t, ht, hseq⟩ := step_response_delay (hrst 0 (by omega)) hp hv (by omega)
  have hcount : t.dcnt = delayCycles (descriptor (inFlight s)) s := congrArg Block.dcnt hseq
  obtain ⟨u, hu, hcounted⟩ := cycles_delay_count (s := t) (k := j) (congrArg Block.phase hseq) (by omega)
    fun m hm => by rw [drawAt_of_cycles (cycles_one ht), hrst _ (by omega)]
  refine ⟨u, by rw [cycles_add 1 j (cycles_one ht), hu], ?_⟩
  rw [hcounted, hseq, hcount, show delayCycles (descriptor (inFlight s)) s + 1 - (1 + j) =
    delayCycles (descriptor (inFlight s)) s - j by omega]

/-- The command is complete at the end of its delay, or at once if it has none, with the outcome of its response
(41_command_framer.md R148 to R150). -/
theorem cycles_response_complete :
    ∃ t n, cycles (delayCycles (descriptor (inFlight s)) s + 1) s = .next t ∧
      sequencerOf t = { sequencerOf (recorded s) with phase := .idle, done := true, dcnt := n } := by
  rcases Nat.eq_zero_or_pos (delayCycles (descriptor (inFlight s)) s) with hL | hL
  · obtain ⟨t, ht, hseq⟩ := step_response_complete (hrst 0 (by omega)) hp hv hL
    exact ⟨t, _, by rw [hL]; exact cycles_one ht, hseq⟩
  · obtain ⟨t, ht, hseq⟩ := step_response_delay (hrst 0 (by omega)) hp hv hL
    have hcount : t.dcnt = delayCycles (descriptor (inFlight s)) s := congrArg Block.dcnt hseq
    obtain ⟨u, hu, hdone⟩ := cycles_delay_complete (s := t) (congrArg Block.phase hseq) (by omega)
      fun m hm => by rw [drawAt_of_cycles (cycles_one ht), hrst _ (by omega)]
    refine ⟨u, 0, ?_, by rw [hdone, hseq]⟩
    rw [Nat.add_comm, cycles_add 1 _ (cycles_one ht), ← hcount, hu]

end

end Sys2Proof.Proofs
end

section
/-! The settling gap and the run of a served command (41_command_framer.md R151, R152): the phases put one after the other, and the
result of each command's blocking call (42_sensor_commands.md). -/

namespace Sys2Proof.Proofs

open Sys2Proof.Machine Sys2Proof.Laws

/-! ### The settling gap -/

/-- Settles O42: in the delay and in the first idle cycle nothing is requested, and a command written there is accepted. -/
theorem settlingGapIsGuaranteed : Obligations.SettlingGapIsGuaranteed := by
  intro s hp hv hrst
  obtain ⟨t, n, ht, hseq⟩ := cycles_response_complete hp hv hrst
  have hidle : t.phase = .idle := congrArg Block.phase hseq
  refine ⟨fun k h1 hk => ?_, t, ht, hidle, fun i hr hw => ?_⟩
  · rcases Nat.le_succ_iff.1 hk with hk | rfl
    · obtain ⟨u, hu, hseq⟩ := cycles_response_delay hp hv hrst h1 hk
      have hdelay : u.phase = .delay := congrArg Block.phase hseq
      exact ⟨u, hu, tRequest_none (by simp [hdelay])⟩
    · exact ⟨t, ht, tRequest_none (by simp [hidle])⟩
  · exact ⟨_, step_accept hr hidle hw, fun _ => tRequest_accept i t⟩

/-! ### The result of a response -/

/-- The recorded result, as the sequencer holds it. -/
def blockResult (b : Block) : Result :=
  { err := b.err, nwords := b.nwords, resp0 := b.resp0, resp1 := b.resp1, resp2 := b.resp2, cause := b.cause }

/-- A block with another recorded result. -/
def withResult (r : Result) (b : Block) : Block :=
  { b with err := r.err, nwords := r.nwords, resp0 := r.resp0, resp1 := r.resp1, resp2 := r.resp2, cause := r.cause }

theorem resultOf_eq_blockResult (s : State) : resultOf s = blockResult (sequencerOf s) := rfl

/-- The recording of an outcome changes the recorded result and nothing else of the sequencer (41_command_framer.md R146,
R147). -/
theorem sequencerOf_recordOutcome (e : Descriptor) (ok : Bool) (data : BitVec 72) (cause : Byte) (s : State) :
    sequencerOf (recordOutcome e ok data cause s) =
      withResult (resultOf (recordOutcome e ok data cause s)) (sequencerOf s) := by
  obtain ⟨_, _, _, _, _, _, h⟩ := recordOutcome_frame e ok data cause s
  rw [h]
  rfl

/-- The result of `w` verified words (41_command_framer.md R147). -/
def wordsResult (w : Nat) (data : BitVec 72) : Result :=
  { noResult with
    nwords := BitVec.ofNat 2 w
    resp0 := if 0 < w then rspWord data 0 else 0
    resp1 := if 1 < w then rspWord data 1 else 0
    resp2 := if 2 < w then rspWord data 2 else 0 }

/-- The result of a command of `w` words on the transport's response `d` (41_command_framer.md R146, R147). -/
def responseResult (w : Nat) (d : Draw) : Result :=
  if d.tRspOk then
    if rspAllOk d.tRspData w then wordsResult w d.tRspData else crcMismatchResult
  else busErrorResult d

/-- Over an empty record, the outcome of a response is recorded as its result. -/
theorem resultOf_recordOutcome {s : State} (hnone : resultOf s = noResult) (e : Descriptor) (d : Draw) :
    resultOf (recordOutcome e d.tRspOk d.tRspData d.tRspCause s) = responseResult e.words d := by
  obtain ⟨herr, hn, h0, h1, h2, hc⟩ : s.err = .none ∧ s.nwords = 0 ∧ s.resp0 = 0 ∧ s.resp1 = 0 ∧ s.resp2 = 0 ∧
      s.cause = 0 := by simpa [resultOf, noResult] using hnone
  rcases recordOutcome_cases e d.tRspOk d.tRspData d.tRspCause s with
    ⟨hok, h⟩ | ⟨hok, hw, h⟩ | ⟨hok, _, hall, h⟩ | ⟨hok, _, hall, h⟩ <;> rw [h, responseResult, hok]
  · simp [resultOf, busErrorResult, noResult, hn, h0, h1, h2]
  · simp [resultOf, hw, rspAllOk, wordsResult, noResult, hn, h0, h1, h2, hc]
  · simp [resultOf, hall, recordWords, wordsResult, noResult, h0, h1, h2, hc]
  · simp [resultOf, hall, crcMismatchResult, noResult, hn, h0, h1, h2, hc]

/-- A triplet of a response verifies when the CRC of its first two bytes is its third (40_crc8.md R125). -/
theorem rspOk_iff (data : BitVec 72) (k : Nat) : rspOk data k = true ↔
    crc8 (rspByte data (3 * k)) (rspByte data (3 * k + 1)) = rspByte data (3 * k + 2) :=
  tripletOk_iff _ _ _

/-- A command with no words has the write-only result (42_sensor_commands.md R170, R171, R177). -/
theorem writeOnlyResult_eq (d : Draw) : writeOnlyResult d = responseResult 0 d := rfl

/-- The one-word result is that of one triplet (42_sensor_commands.md R173 to R176). -/
theorem oneWordResult_eq (d : Draw) : oneWordResult d = responseResult 1 d := by
  have hall : rspAllOk d.tRspData 1 = true ↔ rspOk d.tRspData 0 = true := by simp [rspAllOk]
  simp only [responseResult, hall, rspOk_iff]
  rfl

/-- The three-word result is that of three triplets (42_sensor_commands.md R172). -/
theorem threeWordResult_eq (d : Draw) : threeWordResult d = responseResult 3 d := by
  have hall : rspAllOk d.tRspData 3 = true ↔
      rspOk d.tRspData 0 = true ∧ rspOk d.tRspData 1 = true ∧ rspOk d.tRspData 2 = true := by
    simp [rspAllOk, and_assoc]
  simp only [responseResult, hall, rspOk_iff]
  rfl

/-- The result of the source's blocking call is that of the command's own number of words. -/
theorem callResult_eq (i : Instr) (d : Draw) : callResult i d = responseResult (descriptor i).words d := by
  cases i with
  | startPeriodic | stopPeriodic | reinit => exact writeOnlyResult_eq d
  | getDataReady | getTempOffset | getSensorAltitude | getAmbientPressure => exact oneWordResult_eq d
  | readMeasurement => exact threeWordResult_eq d

/-! ### The run of a served command -/

section
variable {s : State} {i : Instr} {q w : Nat} (h : Served s i q w)
include h

/-- The REQ cycles of a served command: the sequencer is as acceptance left it. -/
theorem served_req {k : Nat} (h1 : 1 ≤ k) (hk : k ≤ q) :
    ∃ t, cycles k s = .next t ∧ sequencerOf t = sequencerOf (accept i s) := by
  obtain ⟨j, rfl⟩ := Nat.exists_eq_add_of_le h1
  have hone := cycles_one (step_accept (h.no_reset 0 (by omega)) h.idle h.written)
  obtain ⟨t, ht, hseq⟩ := cycles_req_waiting (n := j) (s := advance s (accept i s)) (by simp)
    (fun m hm => by rw [drawAt_of_cycles hone, h.no_reset _ (by omega)])
    (fun m hm => by rw [drawAt_of_cycles hone, h.not_ready _ (by omega) (by omega)])
  exact ⟨t, by rw [cycles_add 1 j hone, ht], hseq⟩

/-- The WAIT cycles of a served command: nothing but the phase has changed since acceptance. -/
theorem served_wait {k : Nat} (h1 : q < k) (hk : k ≤ q + w) :
    ∃ t, cycles k s = .next t ∧ sequencerOf t = { sequencerOf (accept i s) with phase := .wait } := by
  obtain ⟨j, rfl⟩ := Nat.exists_eq_add_of_lt h1
  obtain ⟨t, ht, hseq⟩ := served_req h h.q_pos le_rfl
  obtain ⟨u, hu, hwait⟩ := step_req_taken (by rw [draw_of_cycles ht, h.no_reset _ (by omega)])
    (congrArg Block.phase hseq) (by rw [draw_of_cycles ht, h.ready])
  have htaken := cycles_snoc ht hu
  obtain ⟨v, hv, hheld⟩ := cycles_wait_waiting (n := j) (s := u) (congrArg Block.phase hwait)
    (fun m hm => by rw [drawAt_of_cycles htaken, h.no_reset _ (by omega)])
    (fun m hm => by rw [drawAt_of_cycles htaken, h.no_response _ (by omega) (by omega)])
  exact ⟨v, by rw [Nat.add_right_comm, cycles_add (q + 1) j htaken, hv], by rw [hheld, hwait, hseq]⟩

/-- The response cycle of a served command: its own delay is ahead, and what is recorded is its blocking call's result. -/
theorem served_response :
    ∃ t, cycles (q + w) s = .next t ∧ t.phase = .wait ∧ (draw t).tRspValid = true ∧
      delayCycles (descriptor (inFlight t)) t = delayCycles (descriptor i) s ∧
      (∀ k, k ≤ delayCycles (descriptor (inFlight t)) t → (drawAt t k).rst = false) ∧
      sequencerOf (recorded t) =
        withResult (callResult i (drawAt s (q + w))) { sequencerOf (accept i s) with phase := .wait } := by
  obtain ⟨t, ht, hseq⟩ := served_wait h (Nat.lt_add_of_pos_right h.w_pos) le_rfl
  have hcmd : inFlight t = i :=
    (congrArg (fun b : Block => catalogAt b.cmdIdx) hseq).trans (catalogAt_catalogIndex i)
  have hnone : resultOf t = noResult := congrArg blockResult hseq
  have hL : delayCycles (descriptor (inFlight t)) t = delayCycles (descriptor i) s := by
    rw [hcmd, delayCycles, config_of_cycles ht, delayCycles]
  refine ⟨t, ht, congrArg Block.phase hseq, by rw [draw_of_cycles ht, h.response], hL, fun k hk => ?_, ?_⟩
  · rw [drawAt_of_cycles ht, h.no_reset _ (by omega)]
  · rw [recorded, sequencerOf_recordOutcome, hcmd, resultOf_recordOutcome hnone, ← callResult_eq, draw_of_cycles ht,
      hseq]

/-- The DELAY cycles of a served command: the result is recorded, and its whole delay is counted. -/
theorem served_delay {k : Nat} (h1 : q + w < k) (hk : k ≤ q + w + delayCycles (descriptor i) s) :
    ∃ t, cycles k s = .next t ∧ sequencerOf t =
      { withResult (callResult i (drawAt s (q + w))) (sequencerOf (accept i s)) with
        phase := .delay, dcnt := q + w + delayCycles (descriptor i) s + 1 - k } := by
  obtain ⟨t, ht, hp, hv, hL, hrst, hrec⟩ := served_response h
  obtain ⟨u, hu, hseq⟩ := cycles_response_delay (k := k - (q + w)) hp hv hrst (by omega) (by omega)
  refine ⟨u, by rw [← hu, ← cycles_add _ _ ht, Nat.add_sub_cancel' h1.le], ?_⟩
  rw [hseq, hrec, hL, show delayCycles (descriptor i) s + 1 - (k - (q + w)) =
    q + w + delayCycles (descriptor i) s + 1 - k by omega]
  rfl

/-- The completion of a served command, at the end of its delay. -/
theorem served_complete :
    ∃ t n, cycles (q + w + delayCycles (descriptor i) s + 1) s = .next t ∧ sequencerOf t =
      { withResult (callResult i (drawAt s (q + w))) (sequencerOf (accept i s)) with
        phase := .idle, done := true, dcnt := n } := by
  obtain ⟨t, ht, hp, hv, hL, hrst, hrec⟩ := served_response h
  obtain ⟨u, n, hu, hseq⟩ := cycles_response_complete hp hv hrst
  exact ⟨u, n, by rw [Nat.add_assoc, cycles_add _ _ ht, ← hL, hu], by rw [hseq, hrec]; rfl⟩

end

/-- Settles O41: the run of a served command is its REQ, WAIT and DELAY cycles and its completion, and in each the sequencer is
known. -/
theorem servedCommandGivesTheCallResult : Obligations.ServedCommandGivesTheCallResult := by
  intro s i q w h k h1 hk
  by_cases hbefore : k ≤ q + w
  · obtain ⟨t, ht, hnone, hdone⟩ : ∃ t, cycles k s = .next t ∧ resultOf t = noResult ∧ t.done = false := by
      rcases Nat.lt_or_ge q k with hq | hq
      · obtain ⟨t, ht, hseq⟩ := served_wait h hq hbefore
        exact ⟨t, ht, congrArg blockResult hseq, congrArg Block.done hseq⟩
      · obtain ⟨t, ht, hseq⟩ := served_req h h1 hq
        exact ⟨t, ht, congrArg blockResult hseq, congrArg Block.done hseq⟩
    exact ⟨t, ht, fun _ => hnone, fun hafter => by omega, fun _ => hdone⟩
  · rcases Nat.le_succ_iff.1 hk with hk | rfl
    · obtain ⟨t, ht, hseq⟩ := served_delay h (by omega) hk
      exact ⟨t, ht, fun _ => by omega, fun _ => congrArg blockResult hseq, fun _ => congrArg Block.done hseq⟩
    · obtain ⟨t, n, ht, hseq⟩ := served_complete h
      exact ⟨t, ht, fun _ => by omega, fun _ => congrArg blockResult hseq, fun _ => by omega⟩

end Sys2Proof.Proofs
end

section
/-! The command framer's rules one by one (41_command_framer.md R140 to R156): host accesses, acceptance and rejection, the request,
the response, the delay, completion, and the signals that are ignored. -/

namespace Sys2Proof.Proofs

open Sys2Proof.Machine Sys2Proof.Laws

/-! ### Host accesses -/

/-- A read is given the register its index selects (41_command_framer.md R154). -/
theorem hRdata_eq_readReg {s : State} {a : Access} (ha : portAccess s = some a) (hread : a.we = false) :
    hRdata s = some (readReg (regAt a.addr) s) := by
  simp [hRdata, ha, hread]

/-- A read writes no register. -/
theorem writeData_of_read {s : State} {a : Access} (r : Reg) (ha : portAccess s = some a) (hread : a.we = false) :
    writeData r s = none := by
  simp [writeData, ha, hread]

/-- Settles O13: the index selects the register, and a read writes neither CMD nor CRC_IN. -/
theorem hostReadGivesTheRegister : Obligations.HostReadGivesTheRegister := by
  intro s a ha hread
  have hdata := hRdata_eq_readReg ha hread
  have hcmd := writeData_of_read .cmd ha hread
  have hcrc := writeData_of_read .crcIn ha hread
  refine ⟨?_, ?_, ?_, ?_, ?_, ?_, ?_, ?_, hWait_of_cmd_none hcmd, step_blockOf_withGrant_none (fun _ => hcmd) hcrc⟩
  all_goals
    intro haddr
    rw [hdata, haddr]
    rfl

/-- Settles O14: the write reaches neither CMD nor CRC_IN. -/
theorem readOnlyWriteIsIgnored : Obligations.ReadOnlyWriteIsIgnored := by
  intro s a ha _ hne0 hne6
  have hcmd : writeData .cmd s = none := writeData_eq_none ha hne0
  have hcrc : writeData .crcIn s = none := writeData_eq_none ha hne6
  exact ⟨hWait_of_cmd_none hcmd, step_blockOf_withGrant_none (fun _ => hcmd) hcrc⟩

/-- A CMD write waits exactly in a cycle without reset in which a command is in flight (41_command_framer.md R141). -/
theorem hWait_iff {s : State} :
    hWait s = true ↔ (draw s).rst = false ∧ s.phase ≠ .idle ∧ ∃ w, writeData .cmd s = some w := by
  simp [hWait, busy, Option.isSome_iff_exists, and_comm, and_left_comm]

/-- The write that a granted host presents is its next statement (30_encoding.md R111). -/
theorem nextStmt_of_writeData {s : State} {k : Nat} {h : HostAgent} {r : Reg} {w : Word}
    (hg : grantedHost s = some (k, h)) (hw : writeData r s = some w) : nextStmt k h = some (.wr r w) := by
  rw [writeData, portAccess_of_granted hg] at hw
  match hn : nextStmt k h with
  | some (.wr r' v) =>
    obtain ⟨hr, hv⟩ : r' = r ∧ v = w := by simpa [hostAccess_wr hn, writeAccess] using hw
    rw [hr, hv]
  | some (.rd r' v) => simp [hostAccess_rd hn, readAccess] at hw
  | some (.bne v m x l) => simp [hostAccess, hn] at hw
  | none => simp [hostAccess, hn] at hw

/-- Settles O15: a held write reaches nothing, the host stays at it, and an idle block takes the word into CMD_OP. -/
theorem cmdWriteIsHeldWhileBusy : Obligations.CmdWriteIsHeldWhileBusy := by
  refine ⟨fun s => hWait_iff, fun s hwait => ?_, fun s k h hwait hg => ?_, fun s w hrst hp hw => ?_⟩
  · obtain ⟨-, hbusy, w, hw⟩ := hWait_iff.1 hwait
    exact step_blockOf_withGrant_none (fun hp => absurd hp hbusy) (writeData_unique hw (by decide))
  · obtain ⟨hrst, hbusy, w, hw⟩ := hWait_iff.1 hwait
    have hn := nextStmt_of_writeData hg hw
    obtain ⟨-, t, h', hstep, hk, -, -, -, hheld⟩ := hostWriteFinishesWhenPerformed s k h .cmd w hg hn hrst
    exact ⟨w, t, h', hn, hstep, hk, hheld rfl hbusy⟩
  · obtain ⟨t, hstep, hop, -⟩ := cmdOpIsTheLastPerformedWrite s hrst
    exact ⟨t, hstep, hop w hp hw⟩

/-! ### Acceptance, rejection and the request -/

/-- Settles O19: acceptance is the cycle of the command in IDLE, and the step's block is that of the acceptance. -/
theorem acceptStartsTheCommand : Obligations.AcceptStartsTheCommand := by
  refine ⟨fun i s hp => ?_, fun i s hrst hp hw => ?_⟩
  · rw [exec_eq, commandCycle_idle hp]
    rfl
  · exact ⟨tRequest_none (by simp [hp]), _, step_accept hrst hp hw, rfl, rfl⟩

/-- Settles O20: in IDLE the decoded word's command is accepted, and in flight the command of CMD_IDX goes on. -/
theorem stepRunsTheDecodedCommand : Obligations.StepRunsTheDecodedCommand := by
  have idle_step : ∀ s w i, (draw s).rst = false → s.phase = .idle → writeData .cmd s = some w →
      decodeWord w = some i → ∃ t, exec i s = .next t ∧ step s = .next (advance s t) := by
    intro s w i hrst hp hw hd
    rw [decodeWord_eq_some.1 hd] at hw
    exact ⟨_, by rw [exec_eq, commandCycle_idle hp], step_accept hrst hp hw⟩
  refine ⟨idle_step, fun s hrst hbusy => ?_, fun s w i hd => ?_⟩
  · exact ⟨_, exec_eq _ s, by rw [step_eq, afterCycle_busy hrst hbusy, inFlight]⟩
  · refine idle_step (s.withFetchWord 16 w.toNat) w i rfl rfl ?_ hd
    rw [withFetchWord_writeData, Nat.mod_eq_of_lt w.isLt, BitVec.ofNat_toNat, BitVec.setWidth_eq]

/-- Settles O21: rejection leaves the block idle, so nothing is requested before or after it. -/
theorem illegalOpcodeIsRejected : Obligations.IllegalOpcodeIsRejected := by
  intro s w hrst hp hw hd
  refine ⟨tRequest_none (by simp [hp]), _, step_eq s, ?_⟩
  rw [afterCycle_reject hrst hp hw hd]
  refine ⟨tRequest_none (by simp [hp]), ?_, rfl, rfl⟩
  simp [readReg, statusWord, busy, hp, phaseCode, errBits]

/-- A response length fits the request's four bits (30_encoding.md R92). -/
theorem toNat_ofNat_rlen (i : Instr) : (BitVec.ofNat 4 (descriptor i).rlen).toNat = (descriptor i).rlen := by
  cases i <;> rfl

/-- Settles O22: the request stands as long as PHASE is REQ, which only the transport's ready ends. -/
theorem requestWaitsForTheTransport : Obligations.RequestWaitsForTheTransport := by
  refine ⟨fun i s hp hready => ?_, fun i s hp hready => ?_, fun s hp => ⟨tRequest_req hp, ?_⟩,
    fun s hp => tRequest_none hp, fun s hrst => ⟨_, step_eq s, ?_⟩⟩
  · rw [exec_eq, commandCycle_req hp, if_pos hready]
  · rw [exec_eq, commandCycle_req hp, hready, if_neg Bool.false_ne_true]
  · rw [transactionOf, toNat_ofNat_rlen]
    rfl
  · exact tRequest_none (by simp [afterCycle_reset hrst])

/-! ### The response -/

/-- A response ends the transaction of every command with its outcome recorded (41_command_framer.md R145 to R148). -/
theorem exec_response (i : Instr) {s : State} (hp : s.phase = .wait) (hv : (draw s).tRspValid = true) :
    exec i s = .next (endTransaction (descriptor i)
      (recordOutcome (descriptor i) (draw s).tRspOk (draw s).tRspData (draw s).tRspCause s)) := by
  rw [exec_eq, commandCycle_wait hp, responseCycle_of_response hv]

/-- Settles O23: the outcome of a failed transaction is the bus error, and then the transaction ends as any other. -/
theorem busErrorIsRecorded : Obligations.BusErrorIsRecorded := by
  intro i s hp hv hok
  have herror : exec i s = .next (endTransaction (descriptor i) (recordBusError (draw s).tRspCause s)) := by
    rw [exec_response i hp hv, hok]
    rfl
  rw [herror]
  exact ⟨fun hL => congrArg _ (endTransaction_of_zero (s := recordBusError (draw s).tRspCause s) hL),
    fun hL => congrArg _ (endTransaction_of_pos (s := recordBusError (draw s).tRspCause s) hL)⟩

/-- Settles O25: the recording of the outcome leaves the delay's length, DONE and DCNT. -/
theorem transactionEndLoadsTheDelay : Obligations.TransactionEndLoadsTheDelay := by
  refine ⟨fun i s hp hv => ⟨_, exec_response i hp hv, fun hL => ?_, fun hL => ?_⟩, fun i s hp hv => ?_⟩
  · rw [endTransaction_of_pos (by rwa [delayCycles_recordOutcome])]
    exact ⟨delayCycles_recordOutcome .., rfl, recordOutcome_done ..⟩
  · rw [endTransaction_of_zero (by rwa [delayCycles_recordOutcome])]
    exact ⟨recordOutcome_dcnt .., rfl, rfl⟩
  · rw [exec_eq, commandCycle_wait hp, responseCycle_of_no_response hv]

/-- The end of a transaction keeps what is recorded. -/
theorem resultOf_endTransaction (d : Descriptor) (s : State) : resultOf (endTransaction d s) = resultOf s := by
  rcases endTransaction_cases d s with ⟨_, h⟩ | ⟨_, h⟩ <;> rw [h] <;> rfl

/-- Before its response a command has nothing recorded (41_command_framer.md R152). -/
theorem resultOf_wait {s : State} (hs : StateInv s) (hp : s.phase = .wait) : resultOf s = noResult := by
  obtain ⟨herr, hn⟩ := hs.quiet (.inr hp)
  obtain ⟨h1, h2⟩ := hs.resp12_zero (by simp [hn])
  simp [resultOf, noResult, herr, hn, hs.resp0_zero hn, h1, h2, hs.cause_zero (by simp [herr])]

/-- RESP[k] of a recorded result (10_state.md R26). -/
def respOf (r : Result) : Nat → Word
  | 0 => r.resp0
  | 1 => r.resp1
  | _ => r.resp2

theorem respAt_eq_respOf (s : State) (k : Nat) : respAt s k = respOf (resultOf s) k := by
  match k with
  | 0 | 1 | _ + 2 => rfl

/-- With no words recorded, every RESP is 0 (10_state.md R26). -/
theorem respOf_no_words (e : ErrCode) (k : Nat) : respOf { noResult with err := e } k = 0x0000#16 := by
  match k with
  | 0 | 1 | _ + 2 => rfl

/-- Of `w` verified words, RESP[k] is the `k`-th, and 0 beyond them (41_command_framer.md R147). -/
theorem respOf_wordsResult (w : Nat) (data : BitVec 72) {k : Nat} (hk : k < 3) :
    respOf (wordsResult w data) k = if k < w then rspWord data k else 0x0000#16 := by
  interval_cases k <;> rfl

/-- A good response of triplets that all verify gives their words. -/
theorem responseResult_of_verified {w : Nat} {d : Draw} (hok : d.tRspOk = true)
    (hall : ∀ k < w, rspOk d.tRspData k = true) : responseResult w d = wordsResult w d.tRspData := by
  rw [responseResult, if_pos hok, if_pos ((rspAllOk_iff _ _).2 hall)]

/-- A good response with a triplet that fails is a CRC mismatch. -/
theorem responseResult_of_mismatch {w k : Nat} {d : Draw} (hok : d.tRspOk = true) (hk : k < w)
    (hbad : ¬ rspOk d.tRspData k = true) : responseResult w d = crcMismatchResult := by
  rw [responseResult, if_pos hok, if_neg fun hall => hbad ((rspAllOk_iff _ _).1 hall k hk)]

/-- CAUSE is that of a bus error (10_state.md R27). -/
theorem responseResult_cause {w : Nat} {d : Draw} (hok : d.tRspOk = true) :
    (responseResult w d).cause = 0x00#8 := by
  rw [responseResult, if_pos hok]
  split <;> rfl

/-- Settles O24: the result of a good response is its words if every triplet verifies, and else the mismatch. -/
theorem responseWordsAreVerifiedTogether : Obligations.ResponseWordsAreVerifiedTogether := by
  intro i s hs hp hv hok
  obtain ⟨t, ht, hres⟩ : ∃ t, exec i s = .next t ∧ resultOf t = responseResult (descriptor i).words (draw s) :=
    ⟨_, exec_response i hp hv, by rw [resultOf_endTransaction, resultOf_recordOutcome (resultOf_wait hs hp)]⟩
  have hwords : (descriptor i).rlen / 3 = (descriptor i).words := rfl
  simp only [respAt_eq_respOf, hwords]
  refine ⟨t, ht, (congrArg Result.cause hres).trans (responseResult_cause hok), fun h0 => ?_, fun _ hall => ?_,
    fun ⟨k, hk, hbad⟩ => ?_⟩
  · have hw : (descriptor i).words = 0 := by rw [Descriptor.words, h0]
    have hnone : resultOf t = noResult := by
      rw [hres, responseResult_of_verified hok (by simp [hw]), hw]
      rfl
    exact ⟨congrArg Result.err hnone, congrArg Result.nwords hnone, fun k => hnone ▸ respOf_no_words .none k⟩
  · rw [responseResult_of_verified hok fun k hk => (rspOk_iff _ k).2 (hall k hk)] at hres
    have hle : (descriptor i).words ≤ 3 := by have := words_cases i; omega
    rw [hres]
    refine ⟨congrArg Result.err hres, congrArg Result.nwords hres, fun k hk => ?_, fun k hk hk3 => ?_⟩
    · rw [respOf_wordsResult _ _ (hk.trans_le hle), if_pos hk]
      rfl
    · rw [respOf_wordsResult _ _ hk3, if_neg hk.not_gt]
  · rw [responseResult_of_mismatch hok hk (by rwa [rspOk_iff])] at hres
    exact ⟨congrArg Result.err hres, congrArg Result.nwords hres, fun k => hres ▸ respOf_no_words .crcMismatch k⟩

/-! ### The delay, completion and the phase sequence -/

/-- Settles O26: the count goes down by one in every cycle, from DCNT to 1, and then the command completes. -/
theorem delayLastsExactlyItsCount : Obligations.DelayLastsExactlyItsCount := by
  refine ⟨fun i s hp => ⟨fun hd => ?_, fun hd => ?_⟩, fun s n hp hd hpos hrst => ?_⟩
  · rw [exec_eq, commandCycle_delay hp, delayCycle_of_one hd]
    rfl
  · rw [exec_eq, commandCycle_delay hp, delayCycle_of_lt hd]
  · subst hd
    refine ⟨fun k hk => ?_, ?_⟩
    · obtain ⟨t, ht, hseq⟩ := cycles_delay_count hp hk fun j hj => hrst j (hj.trans hk)
      exact ⟨t, ht, (congrArg Block.phase hseq).trans hp, congrArg Block.dcnt hseq, congrArg Block.done hseq,
        congrArg blockResult hseq⟩
    · obtain ⟨t, ht, hseq⟩ := cycles_delay_complete hp hpos hrst
      exact ⟨t, ht, congrArg Block.phase hseq, congrArg Block.dcnt hseq, congrArg Block.done hseq,
        congrArg blockResult hseq⟩

/-- PHASE REQ is left for WAIT only, and DONE stays (41_command_framer.md R144). -/
theorem step_req {s : State} (hrst : (draw s).rst = false) (hp : s.phase = .req) :
    ∃ t, step s = .next t ∧ (t.phase = .req ∨ t.phase = .wait) ∧ t.done = s.done := by
  cases hready : (draw s).tReqReady with
  | false =>
    obtain ⟨t, ht, hseq⟩ := step_req_waiting hrst hp hready
    exact ⟨t, ht, .inl ((congrArg Block.phase hseq).trans hp), congrArg Block.done hseq⟩
  | true =>
    obtain ⟨t, ht, hseq⟩ := step_req_taken hrst hp hready
    exact ⟨t, ht, .inr (congrArg Block.phase hseq), congrArg Block.done hseq⟩

/-- PHASE WAIT is left by a response: to DELAY, or to IDLE with DONE set (41_command_framer.md R145, R148). -/
theorem step_wait {s : State} (hrst : (draw s).rst = false) (hp : s.phase = .wait) :
    ∃ t, step s = .next t ∧
      ((t.phase = .wait ∨ t.phase = .delay) ∧ t.done = s.done ∨ t.phase = .idle ∧ t.done = true) := by
  cases hv : (draw s).tRspValid with
  | false =>
    obtain ⟨t, ht, hseq⟩ := step_wait_waiting hrst hp hv
    exact ⟨t, ht, .inl ⟨.inl ((congrArg Block.phase hseq).trans hp), congrArg Block.done hseq⟩⟩
  | true =>
    rcases Nat.eq_zero_or_pos (delayCycles (descriptor (inFlight s)) s) with hL | hL
    · obtain ⟨t, ht, hseq⟩ := step_response_complete hrst hp hv hL
      exact ⟨t, ht, .inr ⟨congrArg Block.phase hseq, congrArg Block.done hseq⟩⟩
    · obtain ⟨t, ht, hseq⟩ := step_response_delay hrst hp hv hL
      exact ⟨t, ht, .inl ⟨.inr (congrArg Block.phase hseq), (congrArg Block.done hseq).trans (recordOutcome_done ..)⟩⟩

/-- PHASE DELAY is left for IDLE only, with DONE set, whatever the count (41_command_framer.md R149). -/
theorem step_delay {s : State} (hrst : (draw s).rst = false) (hp : s.phase = .delay) :
    ∃ t, step s = .next t ∧ (t.phase = .delay ∧ t.done = s.done ∨ t.phase = .idle ∧ t.done = true) := by
  by_cases hd : s.dcnt = 1
  · obtain ⟨t, ht, hseq⟩ := step_delay_complete hrst hp hd
    exact ⟨t, ht, .inr ⟨congrArg Block.phase hseq, congrArg Block.done hseq⟩⟩
  · obtain ⟨t, ht, hseq⟩ := step_busy hrst (by simp [hp])
    rw [commandCycle_delay hp, delayCycle, if_neg hd] at hseq
    exact ⟨t, ht, .inl ⟨(congrArg Block.phase hseq).trans hp, congrArg Block.done hseq⟩⟩

/-- A command in flight stays so with DONE as it is, or completes (41_command_framer.md R150). -/
theorem step_in_flight {s : State} (hrst : (draw s).rst = false) (hbusy : s.phase ≠ .idle) :
    ∃ t, step s = .next t ∧ (t.phase ≠ .idle ∧ t.done = s.done ∨ t.phase = .idle ∧ t.done = true) := by
  cases hp : s.phase with
  | idle => exact absurd hp hbusy
  | req =>
    obtain ⟨t, ht, hphase, hdone⟩ := step_req hrst hp
    exact ⟨t, ht, .inl ⟨by rcases hphase with h | h <;> simp [h], hdone⟩⟩
  | wait =>
    obtain ⟨t, ht, hcase⟩ := step_wait hrst hp
    exact ⟨t, ht, hcase.imp_left fun ⟨hphase, hdone⟩ => ⟨by rcases hphase with h | h <;> simp [h], hdone⟩⟩
  | delay =>
    obtain ⟨t, ht, hcase⟩ := step_delay hrst hp
    exact ⟨t, ht, hcase.imp_left fun ⟨hphase, hdone⟩ => ⟨by simp [hphase], hdone⟩⟩

/-- An idle cycle accepts a command, rejects a word, or leaves the sequencer as it is (41_command_framer.md R140). -/
theorem step_idle {s : State} (hrst : (draw s).rst = false) (hp : s.phase = .idle) :
    ∃ t, step s = .next t ∧
      ((∃ i, writeData .cmd s = some (encode i)) ∧ t.phase = .req ∧ t.done = false ∨
       (∃ w, writeData .cmd s = some w ∧ decodeWord w = none) ∧ t.phase = .idle ∧ t.done = true ∨
       writeData .cmd s = none ∧ sequencerOf t = sequencerOf s) := by
  refine ⟨_, step_eq s, ?_⟩
  rcases afterCycle_cases s with ⟨hr, _⟩ | ⟨_, _, i, hw, h⟩ | ⟨_, _, w, hw, hd, h⟩ | ⟨_, _, hw, h⟩ | ⟨_, hb, _⟩
  · simp [hrst] at hr
  · exact .inl ⟨⟨i, hw⟩, by simp [h], by simp [h]⟩
  · exact .inr (.inl ⟨⟨w, hw, hd⟩, by simp [h, hp], by simp [h]⟩)
  · exact .inr (.inr ⟨hw, by simp [h]⟩)
  · exact absurd hp hb

/-- Settles O27: a command in flight goes on or completes, and an idle block accepts, rejects or stays as it is. -/
theorem completedResultIsFinal : Obligations.CompletedResultIsFinal := by
  intro s hrst
  by_cases hp : s.phase = .idle
  · obtain ⟨t, ht, hcase⟩ := step_idle hrst hp
    refine ⟨t, ht, fun hbusy => absurd hp hbusy, ?_⟩
    rcases hcase with ⟨⟨i, hw⟩, _, hdone⟩ | ⟨hreject, hphase, hdone⟩ | ⟨hw, hseq⟩
    · refine ⟨fun _ w hw' hd => ?_, fun _ h => ?_, fun _ hn => ?_⟩
      · simp [← Option.some.inj (hw.symm.trans hw')] at hd
      · simp [hdone] at h
      · simp [hw] at hn
    · exact ⟨fun _ _ _ _ => hdone, fun _ _ => ⟨hphase, .inr hreject⟩, fun _ hn => by simp [hn] at hreject⟩
    · have hdone : t.done = s.done := congrArg Block.done hseq
      exact ⟨fun _ w hw' => by simp [hw] at hw', fun hfalse htrue => by simp [hdone, hfalse] at htrue,
        fun _ _ => ⟨(congrArg Block.phase hseq).trans hp, congrArg blockResult hseq, congrArg Block.cmdOp hseq, hdone⟩⟩
  · obtain ⟨t, ht, hcase⟩ := step_in_flight hrst hp
    refine ⟨t, ht, fun _ hidle => ?_, fun h => absurd h hp, fun hfalse htrue => ?_, fun h => absurd h hp⟩
    · rcases hcase with ⟨hbusy, _⟩ | ⟨_, hdone⟩
      · exact absurd hidle hbusy
      · exact hdone
    · rcases hcase with ⟨_, hdone⟩ | ⟨hidle, _⟩
      · simp [hdone, hfalse] at htrue
      · exact ⟨hidle, .inl hp⟩

/-- Settles O28: each phase is left as its own rule says. -/
theorem phaseSequenceIsFixed : Obligations.PhaseSequenceIsFixed := by
  intro s hrst
  cases hp : s.phase with
  | idle =>
    obtain ⟨t, ht, hcase⟩ := step_idle hrst hp
    refine ⟨t, ht, ?_⟩
    rcases hcase with ⟨_, hreq, _⟩ | ⟨_, hidle, _⟩ | ⟨_, hseq⟩
    · exact .inr hreq
    · exact .inl hidle
    · exact .inl ((congrArg Block.phase hseq).trans hp)
  | req =>
    obtain ⟨t, ht, hphase, _⟩ := step_req hrst hp
    exact ⟨t, ht, hphase⟩
  | wait =>
    obtain ⟨t, ht, hcase⟩ := step_wait hrst hp
    exact ⟨t, ht, by tauto⟩
  | delay =>
    obtain ⟨t, ht, hcase⟩ := step_delay hrst hp
    exact ⟨t, ht, hcase.imp And.left And.left⟩

end Sys2Proof.Proofs
end

section
/-! The transport's signals outside their phases (41_command_framer.md R145, R156): a cycle does not see a ready outside REQ, a
response outside WAIT, or the bytes of a response from RLEN on. -/

namespace Sys2Proof.Proofs

open Sys2Proof.Machine Sys2Proof.Laws

/-! ### A cycle with other transport signals -/

theorem draw_withTransport (d : Draw) (s : State) : draw (withTransport d s) =
    { draw s with
      tReqReady := d.tReqReady, tRspValid := d.tRspValid, tRspOk := d.tRspOk, tRspData := d.tRspData,
      tRspCause := d.tRspCause } := rfl

/-- The command port does not see the transport (41_command_framer.md R140). -/
@[simp] theorem fetch_withTransport (d : Draw) (s : State) : fetch (withTransport d s) = fetch s := rfl

/-- The agents go on the same, and the transport's signals of this cycle are behind them. -/
theorem advance_withTransport (d : Draw) (s t : State) :
    advance (withTransport d s) (withTransport d t) = advance s t := rfl

/-- The CRC port does not see the transport (40_crc8.md R126). -/
theorem crcPort_withTransport (d : Draw) (s t : State) :
    crcPort (withTransport d s) (withTransport d t) = withTransport d (crcPort s t) := by
  have hwrite : writeData .crcIn (withTransport d s) = writeData .crcIn s := rfl
  unfold crcPort
  rw [hwrite]
  split <;> rfl

/-- The recording of an outcome sees no signal but those it is given. -/
theorem recordOutcome_withTransport (e : Descriptor) (ok : Bool) (data : BitVec 72) (cause : Byte) (d : Draw) (s : State) :
    recordOutcome e ok data cause (withTransport d s) = withTransport d (recordOutcome e ok data cause s) := by
  unfold recordOutcome recordSuccess
  split_ifs <;> rfl

/-- The end of a transaction sees no signal. -/
theorem endTransaction_withTransport (e : Descriptor) (d : Draw) (s : State) :
    endTransaction e (withTransport d s) = withTransport d (endTransaction e s) := by
  unfold endTransaction
  rw [apply_ite (withTransport d)]
  rfl

/-- The signals of `d` mean in this cycle what those presented mean: a ready in PHASE REQ is the same, and a response in PHASE
WAIT comes at the same time with the same outcome. -/
structure SameSignals (d : Draw) (s : State) : Prop where
  ready : s.phase = .req → d.tReqReady = (draw s).tReqReady
  response : s.phase = .wait → d.tRspValid = (draw s).tRspValid
  outcome : s.phase = .wait →
    recordOutcome (descriptor (inFlight s)) d.tRspOk d.tRspData d.tRspCause s = recorded s

/-- A command's cycle sees the signals only as far as they mean something in its phase. -/
theorem commandCycle_withTransport {i : Instr} {d : Draw} {s : State} (h : SameSignals d s)
    (hi : s.phase ≠ .idle → i = inFlight s) :
    commandCycle i (withTransport d s) = withTransport d (commandCycle i s) := by
  cases hp : s.phase with
  | idle => rw [commandCycle_idle hp, commandCycle_idle (s := withTransport d s) hp]; rfl
  | req =>
    rw [commandCycle_req hp, commandCycle_req (s := withTransport d s) hp, apply_ite (withTransport d),
      draw_withTransport, h.ready hp]
    rfl
  | wait =>
    rw [commandCycle_wait hp, commandCycle_wait (s := withTransport d s) hp, hi (by simp [hp])]
    simp only [responseCycle, draw_withTransport, recordOutcome_withTransport, endTransaction_withTransport,
      apply_ite (withTransport d), h.response hp, h.outcome hp, recorded]
  | delay =>
    rw [commandCycle_delay hp, commandCycle_delay (s := withTransport d s) hp, delayCycle, delayCycle,
      apply_ite (withTransport d)]
    rfl

/-- The block after a cycle with signals of the same meaning is the same. -/
theorem afterCycle_withTransport {d : Draw} {s : State} (h : SameSignals d s) :
    afterCycle (withTransport d s) = withTransport d (afterCycle s) := by
  unfold afterCycle
  rw [fetch_withTransport, draw_withTransport]
  split
  · rfl
  · cases hf : fetch s with
    | command i =>
      have hi : s.phase ≠ .idle → i = inFlight s := fun hbusy => by simpa [fetch_busy hbusy, eq_comm] using hf
      simp only [commandCycle_withTransport h hi, crcPort_withTransport]
    | illegal w => exact crcPort_withTransport d s (reject w s)
    | nothing => exact crcPort_withTransport d s s

/-- The whole step with signals of the same meaning is the same. -/
theorem step_withTransport {d : Draw} {s : State} (h : SameSignals d s) : step (withTransport d s) = step s := by
  rw [step_eq, step_eq, afterCycle_withTransport h, advance_withTransport]

/-- Settles O30: a ready means nothing outside REQ, and a response nothing outside WAIT. -/
theorem strayTransportSignalsAreIgnored : Obligations.StrayTransportSignalsAreIgnored := by
  intro s d hready hresponse
  refine step_withTransport ⟨hready, fun hp => (hresponse hp).1, fun hp => ?_⟩
  obtain ⟨-, hok, hdata, hcause⟩ := hresponse hp
  rw [recorded, hok, hdata, hcause]

/-! ### The bytes of a response -/

/-- A response is three bytes for each of its words (30_encoding.md R92). -/
theorem three_mul_words (i : Instr) : 3 * (descriptor i).words = (descriptor i).rlen := by
  cases i <;> rfl

/-- The outcome of a response is that of its first RLEN bytes (41_command_framer.md R145). -/
theorem recordOutcome_congr {i : Instr} {data data' : BitVec 72} (s : State) (ok : Bool) (cause : Byte)
    (hbytes : ∀ k < (descriptor i).rlen, rspByte data k = rspByte data' k) :
    recordOutcome (descriptor i) ok data cause s = recordOutcome (descriptor i) ok data' cause s := by
  have hlen := three_mul_words i
  have hword : ∀ k < (descriptor i).words, rspWord data k = rspWord data' k := fun k hk => by
    rw [rspWord, rspWord, hbytes _ (by omega), hbytes _ (by omega)]
  have hall : rspAllOk data (descriptor i).words = rspAllOk data' (descriptor i).words := by
    rw [Bool.eq_iff_iff, rspAllOk_iff, rspAllOk_iff]
    refine forall₂_congr fun k hk => ?_
    rw [rspOk, rspOk, hbytes _ (by omega), hbytes _ (by omega), hbytes _ (by omega)]
  have hwords : recordWords (descriptor i).words data s = recordWords (descriptor i).words data' s := by
    simp +contextual only [recordWords, hword]
  rw [recordOutcome, recordSuccess, hall, hwords, recordOutcome, recordSuccess]

/-- Settles O31: the outcome depends on the bytes below RLEN, and everything else of the response is the same. -/
theorem bytesBeyondRlenAreIgnored : Obligations.BytesBeyondRlenAreIgnored := by
  intro s d hp hv hok hcause hbytes
  refine step_withTransport ⟨fun hreq => by simp [hp] at hreq, fun _ => hv, fun _ => ?_⟩
  rw [recorded, hok, hcause, recordOutcome_congr s _ _ hbytes]

end Sys2Proof.Proofs
end

section
/-! The eight commands (42_sensor_commands.md R170 to R177): every command of the catalog runs with its own row's opcode, response
length and delay, and gives its blocking call's result. -/

namespace Sys2Proof.Proofs

open Sys2Proof.Machine Sys2Proof.Laws

/-! ### The request -/

/-- The command in flight is the one at CMD_IDX (10_state.md R29). -/
theorem inFlight_of_cmdIdx {s : State} {i : Instr} (hidx : s.cmdIdx = catalogIndex i) : inFlight s = i := by
  rw [inFlight, hidx, catalogAt_catalogIndex]

/-- A command in flight requests its own opcode and response length (20_memory.md R66). -/
theorem requestOf_command {s : State} {i : Instr} (hs : StateInv s) (hbusy : s.phase ≠ .idle)
    (hidx : s.cmdIdx = catalogIndex i) :
    requestOf s = { wdata := encode i, rlen := BitVec.ofNat 4 (descriptor i).rlen } := by
  rw [requestOf, hs.in_flight hbusy, inFlight_of_cmdIdx hidx]

/-- A command's request writes its two bus bytes to the sensor and reads its response (20_memory.md R60, R65 to R67). -/
theorem transactionOf_command (i : Instr) :
    transactionOf { wdata := encode i, rlen := BitVec.ofNat 4 (descriptor i).rlen } =
      { addr := 0x62#7, wbytes := encodeBytes i, rlen := (descriptor i).rlen } := by
  rw [transactionOf, toNat_ofNat_rlen]
  rfl

/-! ### The response -/

/-- A transaction has a delay to count exactly where its row has one: a millisecond is at least one cycle (00_scope.md R10). -/
theorem delayCycles_eq_zero_iff (d : Descriptor) (s : State) : delayCycles d s = 0 ↔ d.delayMs = 0 := by
  rw [delayCycles, Nat.mul_eq_zero, or_iff_left s.config.cyclesPerMs_pos.ne']

/-- A transaction with its outcome recorded ends in the response's next state: the delay loaded, or complete
(41_command_framer.md R148). -/
theorem endTransaction_eq_respondedFrom {d : Descriptor} {s : State} (hdone : s.done = false) (hcount : s.dcnt = 0) :
    endTransaction d s = respondedFrom s d.delayMs (resultOf s) := by
  rcases endTransaction_cases d s with ⟨hpos, h⟩ | ⟨hzero, h⟩
  · have hms : d.delayMs ≠ 0 := mt (delayCycles_eq_zero_iff d s).2 hpos.ne'
    simp [h, respondedFrom, resultOf, delayCycles, hms, hdone]
  · have hms : d.delayMs = 0 := (delayCycles_eq_zero_iff d s).1 hzero
    simp [h, respondedFrom, resultOf, complete, hms, hcount]

/-- The response's next state is the same over any recorded outcome, which its result replaces. -/
theorem respondedFrom_recordOutcome (d : Descriptor) (ok : Bool) (data : BitVec 72) (cause : Byte) (s : State) (ms : Nat)
    (r : Result) : respondedFrom (recordOutcome d ok data cause s) ms r = respondedFrom s ms r := by
  obtain ⟨_, _, _, _, _, _, h⟩ := recordOutcome_frame d ok data cause s
  rw [h]
  rfl

/-- The response cycle of a command as one next state: its call's result, and its delay ahead or complete
(41_command_framer.md R145 to R148). -/
theorem exec_response_eq_respondedFrom (i : Instr) {s : State} (hs : StateInv s) (hp : s.phase = .wait)
    (hv : (draw s).tRspValid = true) :
    exec i s = .next (respondedFrom s (descriptor i).delayMs (callResult i (draw s))) := by
  have hdone : s.done = false := done_eq_false_of_busy hs (by simp [hp])
  have hcount : s.dcnt = 0 := hs.dcnt_zero (by simp [hp])
  rw [exec_response i hp hv,
    endTransaction_eq_respondedFrom ((recordOutcome_done ..).trans hdone) ((recordOutcome_dcnt ..).trans hcount),
    resultOf_recordOutcome (resultOf_wait hs hp), respondedFrom_recordOutcome, callResult_eq]

/-! ### The whole run -/

/-- Every command runs as its catalog row says (30_encoding.md R95, 42_sensor_commands.md). -/
theorem commandRuns (i : Instr) :
    CommandRuns i (encode i) (hiByte (encode i)) (loByte (encode i)) (catalogIndex i) (descriptor i).rlen
      (descriptor i).delayMs (callResult i) := by
  refine ⟨rfl, fun s hp => ?accepted, fun s hs hp hidx => ?requested,
    fun s hs hp hv => exec_response_eq_respondedFrom i hs hp hv, fun s q w h => ⟨fun k h1 hk => ?delaying, ?completed⟩⟩
  case accepted =>
    rw [exec_eq, commandCycle_idle hp]
    rfl
  case requested =>
    have hreq := requestOf_command hs (by simp [hp]) hidx
    exact ⟨_, fun _ => (tRequest_req hp).trans (congrArg some hreq), rfl, transactionOf_command i,
      by rw [exec_eq, commandCycle_req hp]⟩
  case delaying =>
    obtain ⟨u, hu, hseq⟩ := served_delay h h1 hk
    exact ⟨u, hu, congrArg Block.phase hseq, congrArg Block.done hseq⟩
  case completed =>
    obtain ⟨t, n, ht, hseq⟩ := served_complete h
    exact ⟨t, ht, congrArg Block.phase hseq, congrArg Block.done hseq, congrArg Block.cmdOp hseq,
      congrArg blockResult hseq⟩

/-! ### The eight rules: a rule's numbers are its catalog row's, and its result is its call's -/

/-- Settles O32: the run of the catalog's row 0, which has no delay and no words. -/
theorem startPeriodicRuns : Obligations.StartPeriodicRuns := commandRuns .startPeriodic

/-- Settles O33: the run of the catalog's row 1, a write-only command of 500 ms. -/
theorem stopPeriodicRuns : Obligations.StopPeriodicRuns := commandRuns .stopPeriodic

/-- Settles O34: the run of the catalog's row 2, of three words and no delay. -/
theorem readMeasurementRuns : Obligations.ReadMeasurementRuns := commandRuns .readMeasurement

/-- Settles O35: the run of the catalog's row 3, of one word and 1 ms. -/
theorem getDataReadyRuns : Obligations.GetDataReadyRuns := commandRuns .getDataReady

/-- Settles O36: the run of the catalog's row 4, of one word and 1 ms. -/
theorem getTempOffsetRuns : Obligations.GetTempOffsetRuns := commandRuns .getTempOffset

/-- Settles O37: the run of the catalog's row 5, of one word and 1 ms. -/
theorem getSensorAltitudeRuns : Obligations.GetSensorAltitudeRuns := commandRuns .getSensorAltitude

/-- Settles O38: the run of the catalog's row 6, of one word and 1 ms. -/
theorem getAmbientPressureRuns : Obligations.GetAmbientPressureRuns := commandRuns .getAmbientPressure

/-- Settles O39: the run of the catalog's row 7, a write-only command of 30 ms. -/
theorem reinitRuns : Obligations.ReinitRuns := commandRuns .reinit

end Sys2Proof.Proofs
end

section
/-! The library operations and their conversions (46_host_sequences.md R190 to R205): raw words as physical values in exact
rational arithmetic, the failure an operation reads from STATUS, and the handle of `open`. -/

namespace Sys2Proof.Proofs

open Sys2Proof.Machine Sys2Proof.Laws

/-! ### The data-ready flag -/

/-- The mask of the data-ready flag has its eleven low bits set, and no other. -/
theorem getLsbD_readyMask (k : Nat) : (0x07FF#16).getLsbD k = decide (k < 11) := by
  have hmask : Nat.testBit 0x07FF k = decide (k < 11) := Nat.testBit_two_pow_sub_one 11 k
  rw [BitVec.getLsbD_ofNat, hmask, ← Bool.decide_and, decide_eq_decide]
  omega

/-- The flag is set iff one of the eleven low bits is (46_host_sequences.md R205). -/
theorem dataReadyFlag_iff {n : Word} : dataReadyFlag n = true ↔ ∃ k, k < 11 ∧ n.getLsbD k = true := by
  rw [dataReadyFlag, bne_iff_ne, ne_eq, BitVec.zero_iff_eq_false]
  simp [getLsbD_readyMask, and_comm]

/-- Settles O57: the flag is one of the low bits, so words that agree on these agree on it. -/
theorem dataReadyFlagIsTheLowElevenBits : Obligations.DataReadyFlagIsTheLowElevenBits := by
  refine fun n => ⟨dataReadyFlag_iff, fun m hbits => ?_⟩
  rw [Bool.eq_iff_iff, dataReadyFlag_iff, dataReadyFlag_iff]
  exact exists_congr fun k => and_congr_right fun hk => by rw [hbits k hk]

/-! ### The failure of an operation -/

/-- An operation reads from STATUS the block's ERR (10_state.md R32). -/
@[simp] theorem statusErr_status (s : State) : statusErr (readReg .status s) = s.err := by
  obtain ⟨-, -, herr, -, -, -⟩ := status_fields s
  rw [statusErr, herr]
  cases s.err <;> rfl

/-- Settles O58: the outcome follows the ERR read, which is the block's. -/
theorem libraryErrorIsTheStatusError : Obligations.LibraryErrorIsTheStatusError := by
  intro op f n0 n1 n2 cmd cause s
  rw [libOutcome, statusErr_status]
  refine ⟨fun h => ?_, fun h => ?_, fun h => ?_⟩ <;> rw [h]

/-! ### The conversions -/

/-- The temperature formula undone gives the raw word, with no rounding (46_host_sequences.md R204). -/
theorem temp_inverse (n : Word) : (temp n + 45) * 65536 / 175 = (n.toNat : Rat) := by
  rw [temp]
  ring

/-- Settles O55: the formula and its ends by definition; the inverse is a whole number, so rounding leaves it. -/
theorem temperatureRoundTrips : Obligations.TemperatureRoundTrips := by
  refine ⟨fun _ => rfl, ?high, ?low, fun n => ⟨temp_inverse n, ?rounded⟩⟩
  case high => norm_num [temp]
  case low => norm_num [temp]
  case rounded => rw [temp_inverse, round_natCast]

/-- The Fahrenheit formula with its factor in front (46_host_sequences.md R203). -/
theorem fahrenheitOf_eq (c : Rat) : fahrenheitOf c = 9 / 5 * c + 32 := by
  rw [fahrenheitOf]
  ring

/-- The unit preference reaches no value but that of a measurement (46_host_sequences.md R196, R203). -/
theorem libValue_unit_irrelevant {op : LibOp} (hop : op ≠ .readMeasurement) (f f' : Bool) (n0 n1 n2 : Word) :
    libValue op f n0 n1 n2 = libValue op f' n0 n1 n2 := by
  cases op with
  | readMeasurement => exact absurd rfl hop
  | init | startMeasurements | stopMeasurements | dataReady | getTemperatureOffset | getSensorAltitude
  | getAmbientPressure => rfl

/-- Settles O56: the formulas by definition, and a measurement's temperature in the handle's unit. -/
theorem conversionsFollowTheFormulas : Obligations.ConversionsFollowTheFormulas := by
  refine ⟨fun _ => rfl, ?low, ?high, fun _ => rfl, fahrenheitOf_eq, fun n0 n1 n2 => ?fahrenheit, fun _ _ _ => rfl,
    fun _ f f' n0 n1 n2 hop => libValue_unit_irrelevant hop f f' n0 n1 n2⟩
  case low => norm_num [rh]
  case high => norm_num [rh]
  case fahrenheit =>
    rw [← fahrenheitOf_eq]
    rfl

/-! ### The handle -/

/-- The program of every operation defines its two labels, the failure path and the end (46_host_sequences.md R190). -/
theorem labelsDefined_libProgram (op : LibOp) : labelsDefined (libProgram op) = true := by
  cases op <;> rfl

/-- Every operation loads on every handle, and the handle keeps what `open` stored (46_host_sequences.md R199). -/
theorem loadLibOp_keeps_handle (op : LibOp) (h : HostAgent) :
    ∃ g, loadLibOp op h = some g ∧ g.bus = h.bus ∧ g.fahrenheit = h.fahrenheit := by
  obtain ⟨p, hp⟩ := (assemblesIffLabelsDefined (libProgram op)).2 (labelsDefined_libProgram op)
  exact ⟨{ h with prog := p, pc := 0, vars := [] }, by rw [loadLibOp, hp]; rfl, rfl, rfl⟩

/-- Settles O60: a handle is its two stored values and the empty program, which has no access. -/
theorem openStoresTheHandle : Obligations.OpenStoresTheHandle :=
  ⟨fun _ _ => ⟨rfl, rfl, fun _ => rfl⟩, fun _ => rfl, loadLibOp_keeps_handle⟩

end Sys2Proof.Proofs
end

section
/-! The exceptional conditions (60_exceptions.md R224, R236): no cycle stops the machine and an unanswered transaction waits
without end; the port serves the granted one of the NUM_HOSTS hosts, and no other host moves. -/

namespace Sys2Proof.Proofs

open Sys2Proof.Machine Sys2Proof.Laws

/-! ### No fault, no timeout -/

/-- Settles O44: the block after the cycle, with its agents gone on. -/
theorem everyCycleAnswersANextState : Obligations.EveryCycleAnswersANextState := fun s => ⟨_, step_eq s⟩

/-- Settles O43: PHASE WAIT lasts while the transport does not answer. -/
theorem unansweredTransactionHangs : Obligations.UnansweredTransactionHangs := fun _ _ hp hquiet =>
  cycles_wait_waiting hp (fun k hk => (hquiet k hk).1) fun k hk => (hquiet k hk).2

/-! ### The hosts beside the granted one -/

/-- Where no host of a loaded program is granted the port, none moves (60_exceptions.md R236). -/
theorem hostsAfter_of_not_granted {s : State} (hg : grantedHost s = none) : hostsAfter s = s.hosts := by
  rw [hostsAfter, hg]

/-- Settles O50: the granted host, if there is one, has another number, and a cycle moves no host but that. -/
theorem ungrantedHostDoesNotMove : Obligations.UngrantedHostDoesNotMove := by
  intro s k hk
  cases hg : grantedHost s with
  | none => exact ⟨_, step_eq s, by rw [advance_hosts, hostsAfter_of_not_granted hg]⟩
  | some granted =>
    obtain ⟨hj, -, -⟩ := grantedHost_eq_some.1 hg
    obtain ⟨t, hstep, -, hothers⟩ := step_hosts_of_granted hg
    exact ⟨t, hstep, hothers k fun hkj => hk (hkj ▸ hj)⟩

/-! ### The port -/

/-- The port's access is that of the host that the arbiter names: from its program where State holds it, and the one it
presents where State does not (60_exceptions.md R236). -/
theorem portAccess_eq_some {s : State} {a : Access} : portAccess s = some a ↔ ∃ k, k < s.config.numHosts ∧
    (((draw s).grant = .loaded k ∧ ∃ h, s.hosts[k]? = some h ∧ hostAccess k h = some a) ∨
     ((draw s).grant = .other k a ∧ s.hosts[k]? = none)) := by
  cases hgrant : (draw s).grant with
  | none => simp [portAccess, hgrant]
  | loaded j => simp [portAccess, hgrant, Option.bind_eq_some_iff, grantedHost_eq_some, isHost_iff, and_assoc]
  | other j b => simp [portAccess, hgrant, isHost_iff, and_assoc, and_comm (a := s.hosts.length ≤ j)]

/-- A grant whose number is no host's opens the port to nobody, whether it is to a loaded program or not (00_scope.md R10). -/
theorem port_closed_of_no_host {s : State} {k : Nat} (hk : s.config.numHosts ≤ k)
    (hgrant : (draw s).grant = .loaded k ∨ ∃ a, (draw s).grant = .other k a) :
    portAccess s = none ∧ grantedHost s = none := by
  have hno : ¬ isHost s k = true := by rw [isHost_iff]; omega
  rcases hgrant with hg | ⟨a, hg⟩ <;> simp [portAccess, grantedHost, hg, hno]

/-- A cycle in which the port has no access and no loaded program is granted it is the cycle without its grant. -/
theorem step_withGrant_none {s : State} (hport : portAccess s = none) (hg : grantedHost s = none) :
    step (withGrant .none s) = step s := by
  have hwrite (r : Reg) : writeData r s = none := by simp [writeData, hport]
  have hhosts : hostsAfter (withGrant .none s) = hostsAfter s := (hostsAfter_of_not_granted hg).symm
  rw [step_eq, step_eq, afterCycle_withGrant_none (fun _ => hwrite .cmd) (hwrite .crcIn), advance, hhosts]
  rfl

/-- Settles O59: the port's access is the named host's, and a number that is no host's leaves the port closed. -/
theorem portServesOnlyTheHosts : Obligations.PortServesOnlyTheHosts := by
  refine ⟨fun s a => portAccess_eq_some, fun s k hk hgrant => ?_⟩
  obtain ⟨hport, hg⟩ := port_closed_of_no_host hk hgrant
  exact (step_withGrant_none hport hg).symm

end Sys2Proof.Proofs
end

section
/-! Reset and timing (70_reset_and_hazards.md R250 to R254, R265): the stored elements after a reset cycle, the host whose write
falls into one, and the cycle-by-cycle run of a served command. -/

namespace Sys2Proof.Proofs

open Sys2Proof.Machine Sys2Proof.Laws

/-! ### The run of a served command, cycle by cycle -/

/-- The request presented in PHASE REQ is that of the command whose opcode and index are stored (20_memory.md R66). -/
theorem tRequest_of_command {t : State} {i : Instr} (hp : t.phase = .req) (hop : t.cmdOp = encode i)
    (hidx : t.cmdIdx = catalogIndex i) :
    tRequest t = some { wdata := encode i, rlen := BitVec.ofNat 4 (descriptor i).rlen } := by
  rw [tRequest_req hp, requestOf, hop, inFlight_of_cmdIdx hidx]

/-- Settles O40: a cycle of the run falls into REQ, WAIT, DELAY or completion, and in each the sequencer is known. -/
theorem servedCommandRunsOnTime : Obligations.ServedCommandRunsOnTime := by
  refine ⟨fun s w hrst hp hw hd => ⟨_, step_eq s, ?_⟩, fun s i q w h k h1 hk => ?_⟩
  · rw [afterCycle_reject hrst hp hw hd]
    exact ⟨hp, rfl⟩
  · have hphase : k ≤ q ∨ (q < k ∧ k ≤ q + w) ∨ (q + w < k ∧ k ≤ q + w + delayCycles (descriptor i) s) ∨
        k = q + w + delayCycles (descriptor i) s + 1 := by omega
    rcases hphase with hreq | ⟨hq, hwait⟩ | ⟨hqw, hdelay⟩ | rfl
    · obtain ⟨t, ht, hseq⟩ := served_req h h1 hreq
      have hop : t.cmdOp = encode i := congrArg Block.cmdOp hseq
      have hidx : t.cmdIdx = catalogIndex i := congrArg Block.cmdIdx hseq
      have hp : t.phase = .req := congrArg Block.phase hseq
      exact ⟨t, ht, hop, hidx, fun _ => ⟨hp, tRequest_of_command hp hop hidx⟩, fun _ => by omega, fun _ => by omega,
        fun _ => by omega, fun _ => congrArg Block.done hseq, fun _ => by omega⟩
    · obtain ⟨t, ht, hseq⟩ := served_wait h hq hwait
      have hp : t.phase = .wait := congrArg Block.phase hseq
      exact ⟨t, ht, congrArg Block.cmdOp hseq, congrArg Block.cmdIdx hseq, fun _ => by omega, fun _ _ => hp,
        fun _ => by omega, fun _ => tRequest_none (by simp [hp]), fun _ => congrArg Block.done hseq, fun _ => by omega⟩
    · obtain ⟨t, ht, hseq⟩ := served_delay h hqw hdelay
      have hp : t.phase = .delay := congrArg Block.phase hseq
      exact ⟨t, ht, congrArg Block.cmdOp hseq, congrArg Block.cmdIdx hseq, fun _ => by omega, fun _ _ => by omega,
        fun _ _ => ⟨hp, congrArg Block.dcnt hseq⟩, fun _ => tRequest_none (by simp [hp]),
        fun _ => congrArg Block.done hseq, fun _ => by omega⟩
    · obtain ⟨t, n, ht, hseq⟩ := served_complete h
      have hp : t.phase = .idle := congrArg Block.phase hseq
      exact ⟨t, ht, congrArg Block.cmdOp hseq, congrArg Block.cmdIdx hseq, fun _ => by omega, fun _ _ => by omega,
        fun _ _ => by omega, fun _ => tRequest_none (by simp [hp]), fun _ => by omega,
        fun _ => ⟨hp, congrArg Block.done hseq⟩⟩

/-! ### A reset cycle -/

/-- A reset cycle leaves the reset block, with the agents outside it gone on (70_reset_and_hazards.md R250). -/
theorem step_reset {s : State} (hrst : (draw s).rst = true) : step s = .next (advance s (resetBlock s)) := by
  rw [step_eq, afterCycle_reset hrst]

/-- Settles O16: the reset block, field by field. -/
theorem resetCycleLeavesResetValues : Obligations.ResetCycleLeavesResetValues := fun _ hrst =>
  ⟨_, step_reset hrst, rfl, rfl, rfl, rfl, rfl, rfl, rfl, rfl, rfl, rfl, rfl, rfl, rfl⟩

/-- CRC_OUT of a zero operand (10_state.md R50). -/
theorem crcOut_of_zero {t : State} (ht : t.crcInReg = 0x0000#16) : crcOut t = 0x0081#16 := by
  rw [crcOut, ht]
  decide +kernel

/-- STATUS reads 0 in the reset block (10_state.md R50). -/
theorem status_resetBlock (s : State) : readReg .status (resetBlock s) = 0x0000#16 := by
  simp [readReg, statusWord, busy, phaseCode, errBits]

/-- Settles O17: the reads are those of the reset block, which is idle and so accepts a command. -/
theorem afterResetTheBlockIsReady : Obligations.AfterResetTheBlockIsReady := fun s hrst =>
  ⟨_, step_reset hrst, rfl, status_resetBlock s, rfl, crcOut_of_zero rfl,
    fun _ hr hw => ⟨_, step_accept hr rfl hw, rfl, rfl⟩⟩

/-- A host whose write is not performed has it as its next statement still, with its variables as they were
(30_encoding.md R111). -/
theorem hostAfterAccess_not_performed {k : Nat} {h : HostAgent} {r : Reg} {w : Word} (rdata : Word)
    (hn : nextStmt k h = some (.wr r w)) : nextStmt k (hostAfterAccess k false rdata h) = some (.wr r w) ∧
      (hostAfterAccess k false rdata h).vars = h.vars := by
  rw [hostAfterAccess_wr _ _ hn, if_neg Bool.false_ne_true, nextStmt_atAccess (by simp [hn])]
  exact ⟨hn, atAccess_vars k h⟩

/-- Settles O18: in a reset cycle no write is performed, so the host that presents one stays at it. -/
theorem resetCycleWriteIsPresentedAgain : Obligations.ResetCycleWriteIsPresentedAgain := by
  intro s hrst
  refine ⟨by simp [hWait, hrst], fun k h r w hg hn => ?_⟩
  have hheld : writePerformed s = false := by simp [writePerformed, hrst]
  obtain ⟨t, hstep, hk, -⟩ := step_hosts_of_granted hg
  rw [hheld] at hk
  exact ⟨t, _, hstep, hk, hostAfterAccess_not_performed _ hn⟩

end Sys2Proof.Proofs
end
